-- ==== Sys2Proof/Word.lean ====
section
/-! DEFINITION. The word types of the VS340's records, positions and nozzle sets. -/
namespace Sys2Proof

/-- One byte of a record (Chapter 12). -/
abbrev Byte := BitVec 8

/-- One 16-bit value of a value list or a setting (12.3). -/
abbrev Word := BitVec 16

/-- A position of the belt counter, modulo 2^32 (1.6.2). -/
abbrev Position := BitVec 32

/-- A set of nozzles 0 to 23, nozzle n in bit n (R187). -/
abbrev NozzleSet := BitVec 24

/-- The tag of a sheet entry (R34). -/
abbrev Tag := BitVec 8

/-- A lane number, 0 to 15 (1.6.3). -/
abbrev Lane := BitVec 4

end Sys2Proof
end

