-- ==== Sys2Proof/Config.lean ====
section
/-! DEFINITION. What is fixed for every VS340 (identity, queue limits), and the values the manual leaves open. -/
namespace Sys2Proof.Config

/-- Vendor code of the Ident values (Table 12-6). -/
def vendorCode : Word := 0x0A31
/-- Part code of the Ident values (Table 12-6). -/
def partCode : Word := 0x0340
/-- Revision of the Ident values (Table 12-6). -/
def revision : Word := 0x0001

/-- Most entries in the Sheet Queue (R33). -/
def sheetQueueMax : Nat := 24
/-- Most items on an Edge Hold List (R64). -/
def edgeHoldMax : Nat := 6
/-- Most records in the Output Queue (R133). -/
def outputQueueMax : Nat := 32
/-- Most records in the Output Queue that are not ROUTE records (R133). -/
def nonRouteMax : Nat := 24
/-- Most 16-bit values in a REPLY or a Write (R158, R160). -/
def valuesMax : Nat := 24
/-- The group address (R157). -/
def groupAddress : BitVec 6 := 63

/-- Free value: whether the Copy in flight has written element `index` of the table object with code `object` among what
it has written by draw `draw` ("in an order that is not specified", R122; R123, R124). Log 8. -/
opaque freeCopied (draw object index : Nat) : Bool

/-- Free value: which of several watchers takes a position next ("without any order between them", R27). Log 7. -/
opaque freeWatcher (draw : Nat) : Nat

/-- Free value: whether the drain-end notice that a RETIREMENT or CLEARING gives is taken within it, or only later, so that
a Mode request can come before it ("Either may come first", R170; R168). Log 28. -/
opaque freeNotice (draw : Nat) : Bool

end Sys2Proof.Config
end

