-- ==== Sys2Proof/Syntax.lean ====
section
/-! DEFINITION. The commands of the VS340: one constructor for each row of spec/opcode_table.json, with the contents
the spec gives the record, request or event it names (log 1). -/
namespace Sys2Proof

/-- What the Scan Stream line delivers: a start mark, a byte or an end mark (R1). -/
inductive LineSymbol where
  | start
  | byte (b : Byte)
  | stop
  deriving DecidableEq, Repr

/-- Destination address and request number of a REQUEST record (Table 1-8, 12.2). -/
structure ReqHeader where
  dest : BitVec 6
  number : Byte
  deriving DecidableEq, Repr

/-- The fields of a REQUEST that fit their kind (Table 12-4). The Mode target, the Test action, the object code and the
bank selector are bytes that are judged later. -/
inductive Request where
  | read (object selector : Byte) (index : Word) (count : Byte)
  | write (object : Byte) (index : Word) (values : List Word)
  | commit
  | copy
  | mode (target : Byte)
  | clear (choices : Byte) (codes : List Byte)
  | test (action level : Byte) (nozzles : NozzleSet)
  | ident
  | restart
  deriving DecidableEq, Repr

/-- A record of the Scan Stream that has passed the integrity check (Table 1-8, Tables 12-3 and 12-4). -/
inductive ScanRecord where
  | frame (deck : BitVec 1) (number : Word)
  | openSheet (deck : BitVec 1) (first last : Lane) (offset : Byte)
  | feature (deck : BitVec 1) (lane : Lane) (kind : BitVec 5) (along across : Word) (offset : Byte)
  | moist (deck : BitVec 1) (lane : Lane) (raw temperature : Word)
  | closeSheet (deck : BitVec 1) (first last : Lane) (offset : Byte)
  | request (h : ReqHeader) (kind : Byte) (fields : List Byte)
  deriving DecidableEq, Repr

/-- Levels of the input lines (Table 11-7), high as true. -/
structure Pins where
  encA : Bool
  encDir : Bool
  ready : Bool
  deck : Bool
  deriving DecidableEq, Repr

/-- Contents of the Option Block (Table 11-3). `checkAgrees` says whether its integrity check agrees with the items;
the method of that check is not in the spec (log 11). -/
structure OptionBlock where
  station : BitVec 6
  groupResponder : Bool
  protect : Bool
  knots : Vector Word 8
  curves : Vector (Vector Word 128) 3
  checkAgrees : Bool
  deriving DecidableEq, Repr

/-- The commands. Every REQUEST row carries the header of its record; every position of an entry carries its
tag. -/
inductive Instr where
  | frame (deck : BitVec 1) (number : Word)
  | openSheet (deck : BitVec 1) (first last : Lane) (offset : Byte)
  | feature (deck : BitVec 1) (lane : Lane) (kind : BitVec 5) (along across : Word) (offset : Byte)
  | moist (deck : BitVec 1) (lane : Lane) (raw temperature : Word)
  | closeSheet (deck : BitVec 1) (first last : Lane) (offset : Byte)
  | rejectedRecord (line : List LineSymbol)
  | unknownRequest (h : ReqHeader) (kind : Byte) (fields : List Byte)
  | read (h : ReqHeader) (object selector : Byte) (index : Word) (count : Byte)
  | write (h : ReqHeader) (object : Byte) (index : Word) (values : List Word)
  | writePulseMode (h : ReqHeader) (index : Word) (values : List Word)
  | writePulseRatio (h : ReqHeader) (index : Word) (values : List Word)
  | writeReverseLimit (h : ReqHeader) (index : Word) (values : List Word)
  | writeAlertMask (h : ReqHeader) (index : Word) (values : List Word)
  | writeTable (h : ReqHeader) (object : Byte) (index : Word) (values : List Word)
  | commit (h : ReqHeader)
  | copy (h : ReqHeader)
  | modeStreaming (h : ReqHeader)
  | modeStandbyDrain (h : ReqHeader)
  | modeStandbyFlush (h : ReqHeader)
  | clearFlags (h : ReqHeader) (choices : Byte) (codes : List Byte)
  | clearGradeCounters (h : ReqHeader) (choices : Byte) (codes : List Byte)
  | clearRejectedCount (h : ReqHeader) (choices : Byte) (codes : List Byte)
  | testHold (h : ReqHeader) (level : Byte) (nozzles : NozzleSet) (levels : Pins)
  | testRelease (h : ReqHeader) (level : Byte) (nozzles : NozzleSet) (levels : Pins)
  | ident (h : ReqHeader)
  | restart (h : ReqHeader)
  | forwardPulse (whole : Bool)
  | reversePulse
  | readyRise
  | silencePosition
  | overlength (tag : Tag)
  | decisionPoint (tag : Tag)
  | retirement (tag : Tag)
  | forcedSeal
  | clearing
  | releasePosition (tag : Tag)
  | firePoint (tag : Tag)
  | staleExpiry (tag : Tag)
  | divertWindowOpening (tag : Tag)
  | divertWindowClosing (tag : Tag)
  | blindIntervalOpening
  | blindIntervalClosing
  | stampStart (tag : Tag)
  | dotEnd
  | rowPosition
  | evaluationStart
  | evaluationCompletion
  | copyCompletion
  | commitTakesEffect
  | bankRelease
  | drainEndNotice
  | beginSending
  | sendingCompletion (ready : Bool)
  | powerOn
  | pinReset
  | loadingEnd (reprogrammed : Option OptionBlock) (levels : Pins)
  | modeRequestBadTarget (h : ReqHeader) (target : Byte)
  | testRequestBadAction (h : ReqHeader) (action level : Byte) (nozzles : NozzleSet)
  deriving DecidableEq, Repr

end Sys2Proof
end

