-- ==== Sys2Proof/Decode.lean ====
section
/-! DEFINITION. From bytes to records: the check of R186, the integrity check of R4, the layouts of Tables 12-1 to 12-4,
and the same layouts the other way (`encodeRecord`). The opcode table gives no row any bits, so `decodeTableWord` reads
none. -/
namespace Sys2Proof

/-- No row of spec/opcode_table.json gives bits: no word spells a command. -/
def decodeTableWord (_nbits _w : Nat) : Option Instr := none

/-- One bit of the cyclic check with generator x^16 + x^12 + x^5 + 1 (R186). -/
def crcShift (c : Word) : Word :=
  if c.msb then (c <<< 1) ^^^ 0x1021 else c <<< 1

/-- One byte, most significant bit first (R186). -/
def crcByte (c : Word) (b : Byte) : Word :=
  let c := c ^^^ (b.setWidth 16 <<< 8)
  crcShift (crcShift (crcShift (crcShift (crcShift (crcShift (crcShift (crcShift c)))))))

/-- The check of a record over its header and payload, starting at FFFFH (R186). -/
def recordCheck (bytes : List Byte) : Word := bytes.foldl crcByte 0xFFFF

/-- High and low byte of a 16-bit field, most significant first (Chapter 12). -/
def wordBytes (w : Word) : List Byte := [(w >>> 8).setWidth 8, w.setWidth 8]

/-- A 16-bit field from its two bytes. -/
def bytesWord (hi lo : Byte) : Word := hi ++ lo

/-- The values of a Write, two bytes each; an odd number of bytes does not fit (R187). -/
def bytesWords : List Byte → Option (List Word)
  | [] => some []
  | [_] => none
  | hi :: lo :: rest => (bytesWords rest).map (bytesWord hi lo :: ·)

/-- A nozzle set from its three bytes, nozzles 23 to 16 in the first (R187). -/
def bytesNozzles (a b c : Byte) : NozzleSet := a ++ b ++ c

/-- The fields of a request of kind `kind` (Table 12-4). None when the kind is not one of the nine or the fields do not
fit their length (R159, R187). -/
def parseRequest (kind : Byte) (fields : List Byte) : Option Request :=
  match kind.toNat, fields with
  | 0x01, [o, sel, i1, i0, n] => some (.read o sel (bytesWord i1 i0) n)
  | 0x02, o :: i1 :: i0 :: rest =>
    match bytesWords rest with
    | some vs => if vs.length ≤ Config.valuesMax then some (.write o (bytesWord i1 i0) vs) else none
    | none => none
  | 0x03, [] => some .commit
  | 0x04, [] => some .copy
  | 0x05, [t] => some (.mode t)
  | 0x06, ch :: codes => if codes.length ≤ 16 then some (.clear ch codes) else none
  | 0x07, [a, l, n2, n1, n0] => some (.test a l (bytesNozzles n2 n1 n0))
  | 0x08, [] => some .ident
  | 0x09, [] => some .restart
  | _, _ => none

/-- The payload of a record of kind `kind`: a traffic record carries its exact length, a REQUEST 3 to 54 bytes (R4,
R186, Tables 12-2 to 12-4). None for an unknown kind or a length that is not the kind's. -/
def parsePayload (kind : Byte) (deck : BitVec 1) (payload : List Byte) : Option ScanRecord :=
  match kind.toNat, payload with
  | 0x01, [n1, n0] => some (.frame deck (bytesWord n1 n0))
  | 0x02, [lanes, off] => some (.openSheet deck ((lanes >>> 4).setWidth 4) (lanes.setWidth 4) off)
  | 0x03, [lane, kc, a1, a0, w1, w0, off] =>
    some (.feature deck ((lane >>> 4).setWidth 4) (kc.setWidth 5) (bytesWord a1 a0) (bytesWord w1 w0) off)
  | 0x04, [lane, r1, r0, t1, t0] => some (.moist deck ((lane >>> 4).setWidth 4) (bytesWord r1 r0) (bytesWord t1 t0))
  | 0x05, [lanes, off] => some (.closeSheet deck ((lanes >>> 4).setWidth 4) (lanes.setWidth 4) off)
  | 0x0A, dest :: number :: rk :: fields =>
    if fields.length ≤ 51 then some (.request ⟨dest.setWidth 6, number⟩ rk fields) else none
  | _, _ => none

/-- The integrity check of R4 and R186 over the bytes of a taken record, and its contents where it passes. None: the
record is rejected under R6. -/
def parseRecord (bytes : List Byte) : Option ScanRecord :=
  match bytes with
  | kind :: b1 :: rest =>
    let n := (b1.setWidth 7).toNat
    if rest.length = n + 2 ∧ wordBytes (recordCheck (kind :: b1 :: rest.take n)) = rest.drop n then
      parsePayload kind ((b1 >>> 7).setWidth 1) (rest.take n)
    else none
  | _ => none

/-- The kind code of a record (Table 12-2). -/
def ScanRecord.kindCode : ScanRecord → Byte
  | .frame .. => 0x01
  | .openSheet .. => 0x02
  | .feature .. => 0x03
  | .moist .. => 0x04
  | .closeSheet .. => 0x05
  | .request .. => 0x0A

/-- The deck of a record's header; it has no meaning for a REQUEST and is sent as 0 (R3). -/
def ScanRecord.deckBit : ScanRecord → BitVec 1
  | .frame d _ | .openSheet d _ _ _ | .feature d _ _ _ _ _ | .moist d _ _ _ | .closeSheet d _ _ _ => d
  | .request .. => 0

/-- The payload of a record (Tables 12-3 and 12-4); bits no layout names are sent as 0. -/
def ScanRecord.payload : ScanRecord → List Byte
  | .frame _ n => wordBytes n
  | .openSheet _ f l off | .closeSheet _ f l off => [f ++ l, off]
  | .feature _ lane k a w off => [lane ++ 0#4, k.setWidth 8] ++ wordBytes a ++ wordBytes w ++ [off]
  | .moist _ lane r t => [lane ++ 0#4] ++ wordBytes r ++ wordBytes t
  | .request h rk fields => [h.dest.setWidth 8, h.number, rk] ++ fields

/-- The two header bytes of a record (Table 12-1). -/
def headerBytes (kind : Byte) (deck : BitVec 1) (payloadLength : Nat) : List Byte :=
  [kind, deck ++ BitVec.ofNat 7 payloadLength]

/-- A whole record: header, payload and check (Chapter 12). -/
def frameRecord (kind : Byte) (deck : BitVec 1) (payload : List Byte) : List Byte :=
  let body := headerBytes kind deck payload.length ++ payload
  body ++ wordBytes (recordCheck body)

/-- The bytes of a Scan Stream record. -/
def encodeRecord (r : ScanRecord) : List Byte := frameRecord r.kindCode r.deckBit r.payload

/-- A record that fits its payload: a REQUEST carries 3 to 54 payload bytes (Table 12-2). -/
def ScanRecord.fits : ScanRecord → Bool
  | .request _ _ fields => fields.length ≤ 51
  | _ => true

/-- The request kind code (Table 12-4). -/
def Request.kindCode : Request → Byte
  | .read .. => 0x01
  | .write .. => 0x02
  | .commit => 0x03
  | .copy => 0x04
  | .mode _ => 0x05
  | .clear .. => 0x06
  | .test .. => 0x07
  | .ident => 0x08
  | .restart => 0x09

/-- The three bytes of a nozzle set (R187). -/
def nozzleBytes (n : NozzleSet) : List Byte :=
  [(n >>> 16).setWidth 8, (n >>> 8).setWidth 8, n.setWidth 8]

/-- The fields of a request, from byte 3 of the payload (Table 12-4). -/
def Request.fields : Request → List Byte
  | .read o sel i n => [o, sel] ++ wordBytes i ++ [n]
  | .write o i vs => [o] ++ wordBytes i ++ vs.flatMap wordBytes
  | .mode t => [t]
  | .clear ch codes => ch :: codes
  | .test a l n => [a, l] ++ nozzleBytes n
  | .commit | .copy | .ident | .restart => []

/-- A request whose lists are within the lengths of Table 12-4. -/
def Request.fits : Request → Bool
  | .write _ _ vs => vs.length ≤ Config.valuesMax
  | .clear _ codes => codes.length ≤ 16
  | _ => true

end Sys2Proof
end

