-- ==== Sys2Proof/Machine/State.lean ====
section
/-! DEFINITION. The state of the VS340, block by block (Table 1-1), as plain data; the machine after reset; and the
outcomes of a step. -/
namespace Sys2Proof.Machine

/-! ### Scan Port (Table 1-7) -/

/-- The operating mode (Table 10-1). -/
inductive Mode where
  | loading | standby | streaming | draining
  deriving DecidableEq, Repr

/-- Receive framing with the bytes of the record so far (R1). -/
inductive Framing where
  | hunting
  | receiving (bytes : List Byte)
  deriving DecidableEq, Repr

/-- The silence watch (R15, R16). -/
inductive SilenceWatch where
  | armed | fired
  deriving DecidableEq, Repr

/-- State of the Scan Port (Table 1-7). -/
structure ScanPort where
  framing : Framing
  deckValue : BitVec 1
  expected : Option Word
  lastStamp : Position
  silence : SilenceWatch
  /-- rejected-record counter, saturating at 65535 (R6) -/
  rejected : Nat
  deriving DecidableEq, Repr

/-! ### Position Unit (Table 2-1) and watched positions (Table 2-2) -/

/-- State of the Position Unit; its settings stand in `Settings`. -/
structure PositionUnit where
  belt : Position
  residue : Nat
  debt : Nat
  deriving DecidableEq, Repr

/-- The blocks that watch positions (Table 2-2). -/
inductive Watcher where
  | scanPort | tracker | classifier | scheduler | marker
  deriving DecidableEq, Repr

/-- What a watched position is for (Table 2-2). -/
inductive WatchKind where
  | silence
  | overlength (tag : Tag)
  | decision (tag : Tag)
  | retirement (tag : Tag)
  | forcedSeal
  | clearing
  | release (tag : Tag)
  | fire (tag : Tag)
  | stale (tag : Tag)
  | windowOpening (tag : Tag)
  | windowClosing (tag : Tag)
  | intervalOpening
  | intervalClosing
  | stampStart (tag : Tag)
  | dotEnd
  | row
  deriving DecidableEq, Repr

/-- One watched position: armed, and `due` once a belt advance has reached it (R26) until its watcher takes it. `passed`
says that it lay behind the belt, not at it, when it was armed (R132, log 17). -/
structure Watch where
  kind : WatchKind
  pos : Position
  passed : Bool
  due : Bool
  deriving DecidableEq, Repr

/-- In what event an operation runs: the watcher taking a position, if one is, and where the belt stands for that event
(R27: at the position itself; otherwise at the belt counter). -/
structure Ctx where
  watcher : Option Watcher
  here : Position
  deriving DecidableEq, Repr

/-! ### Settings (Tables 2-3 and 10-3) -/

/-- Conditioner mode (R25). -/
inductive PulseMode where
  | divide | multiply
  deriving DecidableEq, Repr

/-- The settings of Group S and Group L. -/
structure Settings where
  pulseMode : PulseMode
  pulseRatio : Word
  reverseLimit : Word
  laneCount : Word
  scanLag : Word
  silenceDistance : Word
  maxSheetLength : Word
  decisionDistance : Word
  gateDistance : Vector Word 6
  routeLead : Word
  staleDistance : Word
  markerDistance : Word
  rowPitch : Word
  dotLength : Word
  divertDistance : Word
  retireDistance : Word
  /-- one bit per flag code (R179) -/
  alertMask : BitVec 16
  markerEnable : Bool
  reportEnable : Bool
  deriving DecidableEq, Repr

/-! ### Table banks (Table 7-1) -/

/-- One Class Table entry: a class, or IGNORE as `none`, and the fatal mark (Table 4-1). -/
structure ClassEntry where
  cls : Option (Fin 12)
  fatal : Bool
  deriving DecidableEq, Repr

/-- A class limit item (Table 6-2); an absent maximum is `none`. -/
structure ClassLimit where
  cls : Fin 12
  countMax : Option Word
  sizeMax : Option Word
  areaMax : Option Word
  deriving DecidableEq, Repr

/-- Unlisted-class policy (Table 6-1). -/
inductive Policy where
  | allow | refuse
  deriving DecidableEq, Repr

/-- A rule record (Table 6-1); pattern NONE and absent limits are `none`. -/
structure Rule where
  grade : Fin 12
  gate : Fin 6
  pattern : Option (Fin 8)
  minLength : Option Word
  minLanes : Option Word
  moistMax : Option Word
  wetMax : Option Word
  policy : Policy
  itemCount : Fin 13
  items : Vector ClassLimit 12
  deriving DecidableEq, Repr

/-- An Outcome Table record (Table 6-3). -/
structure ReservedOutcome where
  gate : Fin 6
  pattern : Option (Fin 8)
  deriving DecidableEq, Repr

/-- One bank (Table 7-1). The Class Table is indexed by R68, a curve by lane × 8 + knot, the stamp patterns by
pattern × 4 + row (Table 12-5); the outcomes stand in the order FATAL, SUSPECT, LATE, UNGRADED. -/
structure Bank where
  classTable : Vector ClassEntry 256
  bandLimits : Vector Word 3
  edgeZone : Word
  ruleCount : Fin 9
  rules : Vector Rule 8
  outcomes : Vector ReservedOutcome 4
  knots : Vector Word 8
  curves : Vector (Vector Word 128) 3
  thresholds : Vector Word 4
  wetLimit : Word
  patterns : Vector NozzleSet 32
  rowCount : Fin 8
  deriving DecidableEq, Repr

/-- Bank 0 and Bank 1. -/
inductive BankId where
  | bank0 | bank1
  deriving DecidableEq, Repr

/-- State of the bank that is not ACTIVE (Table 7-2). -/
inductive OtherState where
  | staging | retiring
  deriving DecidableEq, Repr

/-- State of the Table Store (Table 7-2). -/
structure TableStore where
  bank0 : Bank
  bank1 : Bank
  active : BankId
  otherState : OtherState
  holders0 : Nat
  holders1 : Nat
  generation : BitVec 8
  commitPending : Bool
  copyInFlight : Bool
  deriving DecidableEq, Repr

/-! ### Sheet entries (Table 3-1) -/

/-- State of an entry. -/
inductive SheetState where
  | opened | closed
  deriving DecidableEq, Repr

/-- Decision source (Table 3-2). -/
inductive DecisionSource where
  | rule (n : Fin 8)
  | fallback
  | fatal
  | suspect
  | late
  deriving DecidableEq, Repr

/-- A decision; the pattern copy is `none` when the pattern is NONE (R45). -/
structure Decision where
  grade : Fin 16
  gate : Fin 6
  pattern : Option (Vector NozzleSet 4)
  rowCount : Nat
  source : DecisionSource
  deriving DecidableEq, Repr

/-- Evaluation status (Table 3-1). -/
inductive EvalStatus where
  | none | listed | inEvaluation | done
  deriving DecidableEq, Repr

/-- Route progress (Table 8-1). -/
inductive RouteProgress where
  | pending | placed | sent | withdrawn
  deriving DecidableEq, Repr

/-- Phase of an armed divert window (Table 8-1). -/
inductive WindowPhase where
  | waiting | opened
  deriving DecidableEq, Repr

/-- The flags of an entry (Table 12-7). -/
structure EntryFlags where
  suspect : Bool := false
  late : Bool := false
  fatal : Bool := false
  diverted : Bool := false
  overlength : Bool := false
  spanConflict : Bool := false
  frameGap : Bool := false
  silent : Bool := false
  reversed : Bool := false
  unmarked : Bool := false
  markSkipped : Bool := false
  deriving DecidableEq, Repr

/-- A held feature (R64). -/
structure HeldFeature where
  kind : BitVec 5
  band : Fin 4
  along : Word
  across : Word
  releasePos : Position
  deriving DecidableEq, Repr

/-- The tally of one class (Table 4-2). -/
structure ClassTally where
  count : Nat
  largest : Nat
  area : Nat
  deriving DecidableEq, Repr

/-- The moisture summary (Table 5-2). -/
structure MoistureSummary where
  count : Nat
  sum : Nat
  maximum : Option Nat
  wet : Nat
  deriving DecidableEq, Repr

/-- A sheet entry (Table 3-1). Divert armed is `window.isSome`; `holding` says whether the entry holds its bound bank
(R49). -/
structure Entry where
  tag : Tag
  state : SheetState
  leading : Position
  trailing : Option Position
  first : Lane
  last : Lane
  bank : BankId
  generation : BitVec 8
  decision : Option Decision
  wouldBe : Option (Fin 16)
  evalStatus : EvalStatus
  route : RouteProgress
  window : Option WindowPhase
  flags : EntryFlags
  held : List HeldFeature
  tally : Vector ClassTally 12
  total : Nat
  moisture : MoistureSummary
  holding : Bool
  deriving DecidableEq, Repr

/-- Seal state of the Blind Span. -/
inductive SealState where
  | unsealed | sealed
  deriving DecidableEq, Repr

/-- A present Blind Span (section 3.9). -/
structure BlindSpan where
  start : Position
  stop : Option Position
  outstanding : Nat
  latest : Position
  sealState : SealState
  deriving DecidableEq, Repr

/-- State of the Sheet Tracker: the Sheet Queue, oldest first, the tag counter and the Blind Span. -/
structure Tracker where
  sheets : List Entry
  tagCounter : Tag
  blind : Option BlindSpan
  deriving DecidableEq, Repr

/-! ### Grade Evaluator (chapter 6) -/

/-- The evaluation in flight (R93). -/
structure InFlight where
  tag : Tag
  bank : BankId
  deriving DecidableEq, Repr

/-- The Grading List, oldest first, and the evaluation in flight; IDLE is `none`. -/
structure Evaluator where
  list : List Tag
  inFlight : Option InFlight
  deriving DecidableEq, Repr

/-! ### Route Scheduler and Route Port (Table 8-1) -/

/-- Phase of the Blind Span divert interval. -/
inductive IntervalPhase where
  | ended | waiting | opened
  deriving DecidableEq, Repr

/-- The Blind Span divert interval (R139, R140). -/
structure Interval where
  phase : IntervalPhase
  opening : Position
  closing : Option Position
  deriving DecidableEq, Repr

/-- The attention flags, in the order of their codes 0 to 15 (Table 11-2). -/
inductive Flag where
  | scanFault | frameGap | scanSilent | orphan | spanConflict | overlength | blind | beltReversed
  | late | diverted | markOverrun | outDropped | commitDone | bankReleased | drained | optionFault
  deriving DecidableEq, Repr

/-- Reply statuses, in the order of their codes (Tables 10-2 and 12-9). -/
inductive Status where
  | done | refusedMode | bankBusy | copyBusy | badObject | badIndex | badValue | readProtected | tableInvalid | checkFailed
  deriving DecidableEq, Repr

/-- Cause of a reset (Table 11-5). -/
inductive Cause where
  | power | pin | command
  deriving DecidableEq, Repr

/-- The start-up record (Table 11-5). -/
structure StartRecord where
  cause : Cause
  requestNumber : Option Byte
  modeBefore : Option Mode
  lost : Option Nat
  optionFaulted : Bool
  deriving DecidableEq, Repr

/-- One tally item of a REPORT (R76). -/
structure TallyItem where
  cls : Fin 12
  tally : ClassTally
  deriving DecidableEq, Repr

/-- A REPORT record (Table 8-2). -/
structure Report where
  tag : Tag
  grade : Fin 16
  gate : Fin 6
  generation : BitVec 8
  leading : Position
  length : BitVec 32
  first : Lane
  last : Lane
  flags : EntryFlags
  wouldBe : Option (Fin 16)
  samples : Nat
  mean : Option Nat
  maximum : Option Nat
  wet : Nat
  items : List TallyItem
  deriving DecidableEq, Repr

/-- The records of the Route Link (Table 12-8). -/
inductive OutRecord where
  | route (tag : Tag) (gate : Fin 6) (grade : Fin 16) (leading : Position)
  | report (r : Report)
  | reply (number : Byte) (station : BitVec 6) (status : Status) (values : List Word)
  | alert (flag : Flag) (pos : Position)
  | start (r : StartRecord)
  deriving DecidableEq, Repr

/-- State of the Route Port: the Output Queue, oldest first, and the record in sending. -/
structure Link where
  queue : List OutRecord
  sending : Option OutRecord
  deriving DecidableEq, Repr

/-! ### Marker Driver (Table 9-1) -/

/-- The stamp in print. -/
structure Stamp where
  tag : Tag
  rows : Vector NozzleSet 4
  rowCount : Nat
  start : Position
  row : Nat
  dotOn : Bool
  deriving DecidableEq, Repr

/-! ### Management Agent (Table 10-1) and Attention Unit (Table 11-1) -/

/-- A held line test. -/
structure LineTest where
  divert : Bool
  nozzles : NozzleSet
  deriving DecidableEq, Repr

/-- A Copy whose REPLY waits for its completion (R163). -/
structure CopyReply where
  number : Byte
  due : Bool
  deriving DecidableEq, Repr

/-- State of the Management Agent, with the values it takes from the Option Block. -/
structure Agent where
  mode : Mode
  lineTest : Option LineTest
  copyReply : Option CopyReply
  station : BitVec 6
  groupResponder : Bool
  protect : Bool
  deriving DecidableEq, Repr

/-- State of the Attention Unit; flag n in bit n. The Alert Mask stands in `Settings`. -/
structure Attention where
  flags : BitVec 16
  grades : Vector (BitVec 32) 16
  startup : StartRecord
  deriving DecidableEq, Repr

/-! ### The whole machine -/

/-- The state of the part. `watches` is in arming order. `draws` counts the free values drawn: the model's own field
(log 9). `pending` is the queue of waiting commands, front first (log 2). -/
structure State where
  scan : ScanPort
  position : PositionUnit
  watches : List Watch
  settings : Settings
  tracker : Tracker
  evaluator : Evaluator
  tables : TableStore
  interval : Interval
  link : Link
  marker : Option Stamp
  agent : Agent
  attention : Attention
  pins : Pins
  optionBlock : OptionBlock
  draws : Nat
  pending : List Instr
  deriving DecidableEq, Repr

/-- No command of this block faults: every error the spec names is an effect on state (INVENTORY.md, Faults). -/
inductive Fault where
  deriving DecidableEq, Repr

/-- Why a command has no meaning. -/
inductive Refusal where
  /-- Raised by `exec` for a command without a meaning yet; safe. No arm raises it. -/
  | notModelled (mnemonic : String)
  deriving DecidableEq, Repr

/-! ### One setter per field of State -/

def State.setScan (s : State) (v : ScanPort) : State := { s with scan := v }
def State.setPosition (s : State) (v : PositionUnit) : State := { s with position := v }
def State.setWatches (s : State) (v : List Watch) : State := { s with watches := v }
def State.setSettings (s : State) (v : Settings) : State := { s with settings := v }
def State.setTracker (s : State) (v : Tracker) : State := { s with tracker := v }
def State.setEvaluator (s : State) (v : Evaluator) : State := { s with evaluator := v }
def State.setTables (s : State) (v : TableStore) : State := { s with tables := v }
def State.setInterval (s : State) (v : Interval) : State := { s with interval := v }
def State.setLink (s : State) (v : Link) : State := { s with link := v }
def State.setMarker (s : State) (v : Option Stamp) : State := { s with marker := v }
def State.setAgent (s : State) (v : Agent) : State := { s with agent := v }
def State.setAttention (s : State) (v : Attention) : State := { s with attention := v }
def State.setPins (s : State) (v : Pins) : State := { s with pins := v }
def State.setOptionBlock (s : State) (v : OptionBlock) : State := { s with optionBlock := v }
def State.setDraws (s : State) (v : Nat) : State := { s with draws := v }
def State.setPending (s : State) (v : List Instr) : State := { s with pending := v }

/-! ### Reset values -/

/-- Power-on settings (R25, Table 2-3, 10.3). -/
def Settings.powerOn : Settings where
  pulseMode := .divide
  pulseRatio := 1
  reverseLimit := 256
  laneCount := 16
  scanLag := 0
  silenceDistance := 2000
  maxSheetLength := 1400
  decisionDistance := 0
  gateDistance := Vector.replicate 6 0
  routeLead := 200
  staleDistance := 300
  markerDistance := 0
  rowPitch := 10
  dotLength := 4
  divertDistance := 0
  retireDistance := 0
  alertMask := 0
  markerEnable := false
  reportEnable := true

/-- The knots of the default moisture preset (R88). -/
def defaultKnots : Vector Word 8 := #v[0, 8192, 16384, 24576, 32768, 40960, 49152, 57344]

/-- The curves of the default moisture preset: every knot value 0 (R88). -/
def defaultCurves : Vector (Vector Word 128) 3 := Vector.replicate 3 (Vector.replicate 128 0)

/-- A rule record at power-on (R128). -/
def Rule.powerOn : Rule where
  grade := 0
  gate := 0
  pattern := none
  minLength := none
  minLanes := none
  moistMax := none
  wetMax := none
  policy := .allow
  itemCount := 0
  items := Vector.replicate 12 ⟨0, none, none, none⟩

/-- A bank at power-on with the given preset (R87, R128). -/
def Bank.powerOn (knots : Vector Word 8) (curves : Vector (Vector Word 128) 3) : Bank where
  classTable := Vector.replicate 256 ⟨none, false⟩
  bandLimits := #v[100, 300, 600]
  edgeZone := 0
  ruleCount := 0
  rules := Vector.replicate 8 Rule.powerOn
  outcomes := Vector.replicate 4 ⟨0, none⟩
  knots := knots
  curves := curves
  thresholds := Vector.replicate 4 0
  wetLimit := 999
  patterns := Vector.replicate 32 0
  rowCount := 1

/-- The Table Store at power-on (R128), with the default preset until the Option Block has been read (log 15). -/
def TableStore.powerOn : TableStore where
  bank0 := Bank.powerOn defaultKnots defaultCurves
  bank1 := Bank.powerOn defaultKnots defaultCurves
  active := .bank0
  otherState := .staging
  holders0 := 0
  holders1 := 0
  generation := 0
  commitPending := false
  copyInFlight := false

/-- An Option Block holding the defaults of R183 with an agreeing check: the contents at State.reset (log 11). -/
def OptionBlock.default : OptionBlock := ⟨0, false, false, defaultKnots, defaultCurves, true⟩

/-- The machine right after a power-on reset, in LOADING (R181, Table 11-4), with low input levels (log 10) and an empty
command queue. -/
def State.reset : State where
  scan := ⟨.hunting, 0, none, 0, .fired, 0⟩
  position := ⟨0, 0, 0⟩
  watches := []
  settings := Settings.powerOn
  tracker := ⟨[], 0, none⟩
  evaluator := ⟨[], none⟩
  tables := TableStore.powerOn
  interval := ⟨.ended, 0, none⟩
  link := ⟨[], none⟩
  marker := none
  agent := ⟨.loading, none, none, 0, false, false⟩
  attention := ⟨0, Vector.replicate 16 0, ⟨.power, none, none, none, false⟩⟩
  pins := ⟨false, false, false, false⟩
  optionBlock := OptionBlock.default
  draws := 0
  pending := []

end Sys2Proof.Machine
end

