-- ==== Sys2Proof/Machine/Ops.lean ====
section
/-! DEFINITION. Operations every block uses: belt positions (R26), watched positions (R26 to R28), saturating counts, and
the entries of the Sheet Queue by tag. -/
namespace Sys2Proof.Machine

/-! ### Positions -/

/-- A position is reached when (belt − P) mod 2^32 is below 2^31 (R26). -/
def reached (belt p : Position) : Bool := (belt - p).toNat < 2 ^ 31

/-- P is before Q when (Q − P) mod 2^32 is below 2^31 and not 0 (R26). -/
def before (p q : Position) : Bool := p ≠ q && (q - p).toNat < 2 ^ 31

/-- The later of two positions (R52, R53). -/
def later (p q : Position) : Position := if before p q then q else p

/-- A distance as an amount to add to a position, modulo 2^32. -/
def bu (w : Word) : Position := w.setWidth 32

/-- An offset of a record as an amount of belt. -/
def buByte (b : Byte) : Position := b.setWidth 32

/-- An edge or a feature on the belt: stamp − Scan Lag − offset, modulo 2^32 (R3). -/
def placed (s : State) (stamp : Position) (offset : Byte) : Position :=
  stamp - bu s.settings.scanLag - buByte offset

/-- A saturating increment (1.6.5). -/
def satInc (max n : Nat) : Nat := if n < max then n + 1 else n

/-- A saturating sum (1.6.5). -/
def satAdd (max a b : Nat) : Nat := min (a + b) max

/-- An element of a table; `d` outside its bounds. -/
def elem {α : Type} {n : Nat} (v : Vector α n) (i : Nat) (d : α) : α := v[i]?.getD d

/-- An event that is not the taking of a watched position: the belt stands at the counter. -/
def Ctx.now (s : State) : Ctx := ⟨none, s.position.belt⟩

/-- The taking of a position by its watcher: the belt stands at the position (R27). -/
def Ctx.at (w : Watcher) (p : Position) : Ctx := ⟨some w, p⟩

/-! ### Watched positions -/

/-- The watcher of a position (Table 2-2). -/
def WatchKind.watcher : WatchKind → Watcher
  | .silence => .scanPort
  | .overlength _ | .decision _ | .retirement _ | .forcedSeal | .clearing => .tracker
  | .release _ => .classifier
  | .fire _ | .stale _ | .windowOpening _ | .windowClosing _ | .intervalOpening | .intervalClosing => .scheduler
  | .stampStart _ | .dotEnd | .row => .marker

/-- The entry a position belongs to, if it belongs to one. -/
def WatchKind.tag : WatchKind → Option Tag
  | .overlength t | .decision t | .retirement t | .release t | .fire t | .stale t | .windowOpening t
  | .windowClosing t | .stampStart t => some t
  | .silence | .forcedSeal | .clearing | .intervalOpening | .intervalClosing | .dotEnd | .row => none

/-- Arm a position (R26), noting whether it lies behind the belt (R132). It is due at once only when its own watcher arms it while taking a position of the same
advance and the counter has already reached it (R28). -/
def arm (c : Ctx) (kind : WatchKind) (pos : Position) (s : State) : State :=
  s.setWatches (s.watches ++
    [⟨kind, pos, before pos s.position.belt, c.watcher = some kind.watcher && reached s.position.belt pos⟩])

/-- Cancel a position (R26). -/
def disarm (kind : WatchKind) (s : State) : State :=
  s.setWatches (s.watches.filter fun w => w.kind ≠ kind)

/-- Cancel, of several positions of one kind, the first armed at this place (a held feature's release, R65, R67). -/
def disarmFirst (kind : WatchKind) (pos : Position) (s : State) : State :=
  s.setWatches (s.watches.eraseP fun w => w.kind = kind && w.pos = pos)

/-- Cancel every position of an entry (R50). -/
def disarmTag (tag : Tag) (s : State) : State :=
  s.setWatches (s.watches.filter fun w => w.kind.tag ≠ some tag)

/-- How far a position lies behind the belt counter (R27). -/
def behind (s : State) (w : Watch) : Nat := (s.position.belt - w.pos).toNat

/-- The position a watcher takes next: of those reached, the one furthest behind the counter, and of equal ones the
first armed (R27). -/
def nextDue (s : State) (w : Watcher) : Option Watch :=
  s.watches.foldl (fun best x =>
    if x.due && x.kind.watcher = w then
      match best with
      | none => some x
      | some b => if behind s b < behind s x then some x else some b
    else best) none

/-- A position that has been taken is no longer watched (R26). -/
def dropWatch (w : Watch) (s : State) : State := s.setWatches (s.watches.erase w)

/-- The command for one watched position: its watcher takes it if it is the one due next (R27); otherwise the event has
not come and nothing changes (log 5). -/
def takeNamed (kind : WatchKind) (act : Watch → State → State) (s : State) : State :=
  match nextDue s kind.watcher with
  | some w => if w.kind = kind then act w (dropWatch w s) else s
  | none => s

/-! ### Entries of the Sheet Queue -/

/-- The entry with a tag; tags are pairwise distinct (R33). -/
def findEntry (tag : Tag) (s : State) : Option Entry := s.tracker.sheets.find? fun e => e.tag = tag

/-- Change the entry with a tag. -/
def modifyEntry (tag : Tag) (f : Entry → Entry) (s : State) : State :=
  s.setTracker { s.tracker with sheets := s.tracker.sheets.map fun e => if e.tag = tag then f e else e }

/-- Do something with the entry of a tag, or nothing when there is none. -/
def withEntry (tag : Tag) (f : Entry → State → State) (s : State) : State :=
  match findEntry tag s with
  | some e => f e s
  | none => s

/-- The tags of the entries that meet a condition, in queue order. -/
def tagsWhere (p : Entry → Bool) (s : State) : List Tag := (s.tracker.sheets.filter p).map (·.tag)

/-- Whether a lane lies in an entry's span (1.6.3). -/
def Entry.covers (e : Entry) (lane : Lane) : Bool := e.first ≤ lane && lane ≤ e.last

/-- Two spans share a lane (1.6.3). -/
def Entry.sharesLane (e : Entry) (first last : Lane) : Bool := e.first ≤ last && first ≤ e.last

/-- Whether an entry is in OPEN state. -/
def Entry.isOpen (e : Entry) : Bool := e.state = .opened

/-- The length of a CLOSED entry, modulo 2^32; absent while it is OPEN (Table 3-1). -/
def Entry.length (e : Entry) : Option (BitVec 32) := e.trailing.map (· - e.leading)

/-- The other bank. -/
def BankId.other : BankId → BankId
  | .bank0 => .bank1
  | .bank1 => .bank0

/-- The contents of a bank. -/
def TableStore.bank (t : TableStore) : BankId → Bank
  | .bank0 => t.bank0
  | .bank1 => t.bank1

/-- Replace the contents of a bank. -/
def TableStore.setBank (t : TableStore) (id : BankId) (b : Bank) : TableStore :=
  match id with
  | .bank0 => { t with bank0 := b }
  | .bank1 => { t with bank1 := b }

/-- The bank that is not ACTIVE. -/
def TableStore.other (t : TableStore) : BankId := t.active.other

/-- Set the mode of the part. -/
def setMode (m : Mode) (s : State) : State := s.setAgent { s.agent with mode := m }

/-- Draw a fresh free value: the counter the opaque constants of Config are applied to (log 9). -/
def draw (s : State) : State := s.setDraws (s.draws + 1)

end Sys2Proof.Machine
end

