-- ==== Sys2Proof/Machine/Flags.lean ====
section
/-! DEFINITION. Attention flags and ALERT (R175 to R179), the Output Queue (R133) and the beginning of sending (R134),
and the flag word of an entry (Table 12-7). A raised flag may offer a record, and a dropped record raises a flag, so
they stand in one file. -/
namespace Sys2Proof.Machine

/-! ### Codes -/

/-- The code of an attention flag (Table 11-2). -/
def Flag.code : Flag → Nat
  | .scanFault => 0 | .frameGap => 1 | .scanSilent => 2 | .orphan => 3 | .spanConflict => 4 | .overlength => 5
  | .blind => 6 | .beltReversed => 7 | .late => 8 | .diverted => 9 | .markOverrun => 10 | .outDropped => 11
  | .commitDone => 12 | .bankReleased => 13 | .drained => 14 | .optionFault => 15

/-- The bit of a flag in a flag word. -/
def flagBit (n : Nat) : BitVec 16 := 1#16 <<< n

/-- Whether a flag is set. -/
def flagSet (s : State) (f : Flag) : Bool := s.attention.flags.getLsbD f.code

/-- Whether a flag's mask bit is set. -/
def maskSet (s : State) (f : Flag) : Bool := s.settings.alertMask.getLsbD f.code

/-- One bit of a flag word. -/
def bit16 (b : Bool) (n : Nat) : Word := if b then flagBit n else 0

/-- The flags of an entry as carried in REPORT and Sheets (Table 12-7). -/
def EntryFlags.word (f : EntryFlags) : Word :=
  bit16 f.suspect 0 ||| bit16 f.late 1 ||| bit16 f.fatal 2 ||| bit16 f.diverted 3 ||| bit16 f.overlength 4 |||
  bit16 f.spanConflict 5 ||| bit16 f.frameGap 6 ||| bit16 f.silent 7 ||| bit16 f.reversed 8 ||| bit16 f.unmarked 9 |||
  bit16 f.markSkipped 10

/-! ### Output Queue and sending -/

/-- Whether a record is a ROUTE record. -/
def OutRecord.isRoute : OutRecord → Bool
  | .route .. => true
  | _ => false

/-- Whether a record is the ROUTE record of an entry. -/
def OutRecord.isRouteOf (tag : Tag) : OutRecord → Bool
  | .route t _ _ _ => t = tag
  | _ => false

/-- Records in the Output Queue that are not ROUTE records. -/
def nonRouteCount (q : List OutRecord) : Nat := (q.filter fun r => !r.isRoute).length

/-- Room for a ROUTE record (R131, R133). -/
def roomForRoute (s : State) : Bool := s.link.queue.length < Config.outputQueueMax

/-- Room for a record that is offered (R133). -/
def roomForOffered (s : State) : Bool :=
  s.link.queue.length < Config.outputQueueMax && nonRouteCount s.link.queue < Config.nonRouteMax

/-- Append a record at the tail. -/
def enqueue (r : OutRecord) (s : State) : State := s.setLink { s.link with queue := s.link.queue ++ [r] }

/-- A ROUTE record that begins sending makes its entry SENT and cancels the entry's stale expiry (R134). -/
def routeSent (r : OutRecord) (s : State) : State :=
  match r with
  | .route tag _ _ _ => disarm (.stale tag) (modifyEntry tag (fun e => { e with route := .sent }) s)
  | _ => s

/-- Begin sending when READY is high, no record is in sending and the queue is not empty (R134). -/
def tryBegin (s : State) : State :=
  match s.pins.ready, s.link.sending, s.link.queue with
  | true, none, r :: rest => routeSent r (s.setLink ⟨rest, some r⟩)
  | _, _, _ => s

/-- Place a record at the tail; its sending begins within the same event when the conditions of R134 hold. -/
def place (r : OutRecord) (s : State) : State := tryBegin (enqueue r s)

/-! ### Flags -/

/-- Set a flag in the flag word. -/
def setFlag (f : Flag) (s : State) : State :=
  s.setAttention { s.attention with flags := s.attention.flags ||| flagBit f.code }

/-- Clear a flag (R164). -/
def clearFlagCode (n : Nat) (s : State) : State :=
  s.setAttention { s.attention with flags := s.attention.flags &&& ~~~(flagBit n) }

/-- Offer a record (R133): placed when there is room, otherwise dropped with OUT_DROPPED. The ALERT record that a change
to set of OUT_DROPPED would offer meets the same test that has just failed, so none is placed. -/
def offer (r : OutRecord) (s : State) : State :=
  if roomForOffered s then place r s else setFlag .outDropped s

/-- Raise a flag (R175): a change to set whose mask bit is set offers an ALERT record with the belt position of the
event (R177). The order of several flags raised in one event is that of the rule's text (log 14). -/
def raise (c : Ctx) (f : Flag) (s : State) : State :=
  if flagSet s f then s
  else
    let s := setFlag f s
    if maskSet s f then offer (.alert f c.here) s else s

/-! ### Output lines (log 19) -/

/-- ALERT is asserted exactly when a set flag has its mask bit set (R176); the pin is active low. -/
def alertAsserted (s : State) : Bool := (s.attention.flags &&& s.settings.alertMask) ≠ 0

/-- DIVERT as the Route Scheduler gives it: some window OPEN, or the interval OPEN (R138). -/
def divertWanted (s : State) : Bool :=
  s.tracker.sheets.any (fun e => e.window = some .opened) || s.interval.phase = .opened

/-- The DIVERT line: a held line test drives it, otherwise the Route Scheduler (R138, R171). -/
def divertAsserted (s : State) : Bool :=
  match s.agent.lineTest with
  | some t => t.divert
  | none => divertWanted s

/-- The nozzles as the Marker Driver gives them (R148). -/
def markerNozzles (s : State) : NozzleSet :=
  match s.marker with
  | some p => if p.dotOn then elem p.rows p.row 0 else 0
  | none => 0

/-- The nozzle lines: a held line test drives them, otherwise the Marker Driver (R148, R171). -/
def nozzleLines (s : State) : NozzleSet :=
  match s.agent.lineTest with
  | some t => t.nozzles
  | none => markerNozzles s

end Sys2Proof.Machine
end

