-- ==== Sys2Proof/Machine/Tables.lean ====
section
/-! DEFINITION. The Table Store (chapter 7): holds and the release of a bank, the commit checks, Commit and Copy. -/
namespace Sys2Proof.Machine

/-! ### Holds (R113, R114) -/

/-- Number of entries that hold a bank (R113). -/
def TableStore.holders (t : TableStore) : BankId → Nat
  | .bank0 => t.holders0
  | .bank1 => t.holders1

/-- Set the holder count of a bank. -/
def TableStore.setHolders (t : TableStore) (id : BankId) (n : Nat) : TableStore :=
  match id with
  | .bank0 => { t with holders0 := n }
  | .bank1 => { t with holders1 := n }

/-- A RETIRING bank without a holder becomes STAGING and BANK_RELEASED is raised (R114). -/
def releaseBank (c : Ctx) (s : State) : State :=
  if s.tables.otherState = .retiring && s.tables.holders s.tables.other = 0 then
    raise c .bankReleased (s.setTables { s.tables with otherState := .staging })
  else s

/-- The end of one hold on a bank is handed to the Table Store (R113, R114). -/
def releaseHold (c : Ctx) (id : BankId) (s : State) : State :=
  let s := s.setTables (s.tables.setHolders id (s.tables.holders id - 1))
  if id = s.tables.active then s else releaseBank c s

/-- An entry holds its bank while it is OPEN, undecided or in evaluation (R49); the close handling calls `endHold` at
its end. -/
def Entry.needsBank (e : Entry) : Bool :=
  e.state = .opened || e.decision.isNone || e.evalStatus = .inEvaluation

/-- An entry that no longer needs its bank stops holding it, once (R49, R113). -/
def endHold (c : Ctx) (tag : Tag) (s : State) : State :=
  withEntry tag (fun e s =>
    if e.holding && !e.needsBank then
      releaseHold c e.bank (modifyEntry tag (fun e => { e with holding := false }) s)
    else s) s

/-- BANK_RELEASE (R114). -/
def execBankRelease (s : State) : Host.Outcome State Fault Refusal := .next (releaseBank (Ctx.now s) s)

/-! ### Commit checks (R118, Table 7-3) -/

/-- Whether a list of values rises strictly. -/
def risesStrictly : List Nat → Bool
  | a :: b :: rest => a < b && risesStrictly (b :: rest)
  | _ => true

/-- Whether a list of values never falls. -/
def neverFalls : List Nat → Bool
  | a :: b :: rest => a ≤ b && neverFalls (b :: rest)
  | _ => true

/-- A gate is installed when its Gate Distance is above 0 (R29). -/
def gateInstalled (st : Settings) (g : Fin 6) : Bool := 0 < (st.gateDistance.get g).toNat

/-- The class limit list of a rule: item slots 0 to item count − 1 (6.1). -/
def Rule.limits (r : Rule) : List ClassLimit := r.items.toList.take r.itemCount.val

/-- Whether a class appears in two items of a list (R109, R118). -/
def hasRepeatedClass : List ClassLimit → Bool
  | [] => false
  | l :: rest => rest.any (fun m => m.cls = l.cls) || hasRepeatedClass rest

/-- The rules in use: rules 0 to Rule Count − 1 (6.1). -/
def Bank.rulesInUse (b : Bank) : List Rule := b.rules.toList.take b.ruleCount.val

/-- Index the elements of a list from a number on. -/
def numbered {α : Type} (start : Nat) : List α → List (Nat × α)
  | [] => []
  | a :: rest => (start, a) :: numbered (start + 1) rest

/-- The checks of Table 7-3 in rising order of item index; true means the item fails. -/
def commitChecks (st : Settings) (b : Bank) : List (Nat × Bool) :=
  [(1, !risesStrictly (b.bandLimits.toList.map (·.toNat))),
   (2, !risesStrictly (b.knots.toList.map (·.toNat))),
   (3, !neverFalls (b.thresholds.toList.map (·.toNat))),
   (4, b.rowCount.val < 1 || 4 < b.rowCount.val)] ++
  (numbered 16 b.rulesInUse).map (fun (i, r) => (i, !gateInstalled st r.gate)) ++
  (numbered 24 b.rulesInUse).map (fun (i, r) => (i, hasRepeatedClass r.limits)) ++
  (numbered 32 b.outcomes.toList).map (fun (i, o) => (i, !gateInstalled st o.gate))

/-- The item index of the first commit check that fails, if one does (R118). -/
def firstCommitFailure (st : Settings) (b : Bank) : Option Nat :=
  ((commitChecks st b).find? (·.2)).map (·.1)

/-! ### Commit (R117, R119, R120) -/

/-- A commit takes effect (R120). -/
def commitEffect (c : Ctx) (s : State) : State :=
  let t := s.tables
  raise c .commitDone (s.setTables { t with
    active := t.other
    otherState := if 0 < t.holders t.active then .retiring else .staging
    generation := t.generation + 1
    commitPending := false })

/-- A pending commit takes effect at one of the events of R119. -/
def commitIfPending (c : Ctx) (s : State) : State :=
  if s.tables.commitPending then commitEffect c s else s

/-- A pending commit takes effect when the Sheet Queue is empty (R117, R119). -/
def commitIfQueueEmpty (c : Ctx) (s : State) : State :=
  if s.tracker.sheets.isEmpty then commitIfPending c s else s

/-- COMMIT_TAKES_EFFECT (R119, R120): as an event of its own only when the Sheet Queue is empty; the other causes are
inside their commands (log 12). -/
def execCommitTakesEffect (s : State) : Host.Outcome State Fault Refusal :=
  .next (commitIfQueueEmpty (Ctx.now s) s)

/-! ### Copy (R122 to R124) -/

/-- Replace elements of a table one by one, as `pick` says. -/
def mixVec {α : Type} {n : Nat} (pick : Nat → Bool) (old new : Vector α n) : Vector α n :=
  Vector.ofFn fun i => if pick i.val then new.get i else old.get i

/-- A rule record of which some fields and items have been copied; fields and items by the indices of Table 12-5. -/
def mixRule (pick : Nat → Nat → Bool) (n : Nat) (old new : Rule) : Rule where
  grade := if pick 0x44 (n * 9) then new.grade else old.grade
  gate := if pick 0x44 (n * 9 + 1) then new.gate else old.gate
  pattern := if pick 0x44 (n * 9 + 2) then new.pattern else old.pattern
  minLength := if pick 0x44 (n * 9 + 3) then new.minLength else old.minLength
  minLanes := if pick 0x44 (n * 9 + 4) then new.minLanes else old.minLanes
  moistMax := if pick 0x44 (n * 9 + 5) then new.moistMax else old.moistMax
  wetMax := if pick 0x44 (n * 9 + 6) then new.wetMax else old.wetMax
  policy := if pick 0x44 (n * 9 + 7) then new.policy else old.policy
  itemCount := if pick 0x44 (n * 9 + 8) then new.itemCount else old.itemCount
  items := mixVec (fun i => pick 0x45 (n * 12 + i)) old.items new.items

/-- A bank of which some elements have been copied: `pick object index` says which, by the codes and indices of Table
12-5 (R123, R124, log 8). -/
def mixBank (pick : Nat → Nat → Bool) (old new : Bank) : Bank where
  classTable := mixVec (pick 0x40) old.classTable new.classTable
  bandLimits := mixVec (pick 0x41) old.bandLimits new.bandLimits
  edgeZone := if pick 0x42 0 then new.edgeZone else old.edgeZone
  ruleCount := if pick 0x43 0 then new.ruleCount else old.ruleCount
  rules := Vector.ofFn fun i => mixRule pick i.val (old.rules.get i) (new.rules.get i)
  outcomes := mixVec (pick 0x46) old.outcomes new.outcomes
  knots := mixVec (pick 0x47) old.knots new.knots
  curves := Vector.ofFn fun i => mixVec (pick (0x48 + i.val)) (old.curves.get i) (new.curves.get i)
  thresholds := mixVec (pick 0x4B) old.thresholds new.thresholds
  wetLimit := if pick 0x4C 0 then new.wetLimit else old.wetLimit
  patterns := mixVec (pick 0x4D) old.patterns new.patterns
  rowCount := if pick 0x4E 0 then new.rowCount else old.rowCount

/-- The STAGING bank with some more of its elements copied: which ones is a free value (R122 to R124, log 8). -/
def partlyCopied (n : Nat) (t : TableStore) : Bank :=
  mixBank (Config.freeCopied n) (t.bank t.other) (t.bank t.active)

/-- A Copy in flight writes some of its items into the STAGING bank. An item once copied equals the ACTIVE one and stays
so (R122, R123). What has been written is drawn when it can be seen (log 8). -/
def copyProgress (s : State) : State :=
  if s.tables.copyInFlight then draw (s.setTables (s.tables.setBank s.tables.other (partlyCopied s.draws s.tables)))
  else s

/-- The Copy completes: the STAGING bank equals the ACTIVE bank, and the REPLY is offered if one is due (R123, R163). -/
def completeCopy (s : State) : State :=
  if s.tables.copyInFlight then
    let t := { s.tables.setBank s.tables.other (s.tables.bank s.tables.active) with copyInFlight := false }
    let reply := s.agent.copyReply
    let s := (s.setTables t).setAgent { s.agent with copyReply := none }
    match reply with
    | some r => if r.due then offer (.reply r.number s.agent.station .done []) s else s
    | none => s
  else s

/-- COPY_COMPLETION (R123). -/
def execCopyCompletion (s : State) : Host.Outcome State Fault Refusal := .next (completeCopy s)

/-- The two banks of a warm reset: a Copy in flight leaves the STAGING bank as far as it has been copied (log 8); nothing is held, pending or
in flight, and the other bank is STAGING (R124, R129). -/
def TableStore.warmReset (n : Nat) (t : TableStore) : TableStore :=
  let t := if t.copyInFlight then t.setBank t.other (partlyCopied n t) else t
  { t with otherState := .staging, holders0 := 0, holders1 := 0, commitPending := false, copyInFlight := false }

/-- The Table Store's part of a flush: every hold has ended, a RETIRING bank becomes STAGING, and then a pending commit
takes effect (R127). -/
def flushTables (c : Ctx) (s : State) : State :=
  let s := s.setTables { s.tables with holders0 := 0, holders1 := 0 }
  commitIfPending c (releaseBank c s)

end Sys2Proof.Machine
end

