-- ==== Sys2Proof/Machine/Operands.lean ====
section
/-! DEFINITION. The operand forms of requests and records: the objects of Table 12-5, the values of their elements, the
range checks of a Write, and the byte layouts of the Route Link (Tables 12-5 to 12-9). -/
namespace Sys2Proof.Machine

/-! ### Objects (Tables 10-3 and 12-5) -/

/-- Group S settings. -/
inductive SettingS where
  | pulseMode | pulseRatio | reverseLimit | laneCount | scanLag | silenceDistance | maxSheetLength | decisionDistance
  | gateDistance | routeLead | staleDistance | markerDistance | rowPitch | dotLength | divertDistance | retireDistance
  deriving DecidableEq, Repr

/-- Group L settings. -/
inductive SettingL where
  | alertMask | markerEnable | reportEnable
  deriving DecidableEq, Repr

/-- Read-only objects. -/
inductive StatusObject where
  | mode | belt | reverseDebt | bankState | flags | gradeCounts | rejectedCount | sheets | blindSpan | queueDepth
  | ident | startCause
  deriving DecidableEq, Repr

/-- Table objects. -/
inductive TableObject where
  | classTable | bandLimits | edgeZone | ruleCount | ruleFields | classLimits | outcomes | knots | curve (n : Fin 3)
  | thresholds | wetLimit | patterns | rowCount
  deriving DecidableEq, Repr

/-- An object, by its group (Table 10-3). -/
inductive Object where
  | standby (o : SettingS)
  | live (o : SettingL)
  | status (o : StatusObject)
  | table (o : TableObject)
  deriving DecidableEq, Repr

/-- The object of a code; none for an unknown code (Table 12-5). -/
def objectOf (code : Byte) : Option Object :=
  match code.toNat with
  | 0x01 => some (.standby .pulseMode) | 0x02 => some (.standby .pulseRatio) | 0x03 => some (.standby .reverseLimit)
  | 0x04 => some (.standby .laneCount) | 0x05 => some (.standby .scanLag) | 0x06 => some (.standby .silenceDistance)
  | 0x07 => some (.standby .maxSheetLength) | 0x08 => some (.standby .decisionDistance)
  | 0x09 => some (.standby .gateDistance)
  | 0x0A => some (.standby .routeLead) | 0x0B => some (.standby .staleDistance)
  | 0x0C => some (.standby .markerDistance) | 0x0D => some (.standby .rowPitch) | 0x0E => some (.standby .dotLength)
  | 0x0F => some (.standby .divertDistance) | 0x10 => some (.standby .retireDistance)
  | 0x18 => some (.live .alertMask) | 0x19 => some (.live .markerEnable) | 0x1A => some (.live .reportEnable)
  | 0x20 => some (.status .mode) | 0x21 => some (.status .belt) | 0x22 => some (.status .reverseDebt)
  | 0x23 => some (.status .bankState) | 0x24 => some (.status .flags) | 0x25 => some (.status .gradeCounts)
  | 0x26 => some (.status .rejectedCount) | 0x27 => some (.status .sheets) | 0x28 => some (.status .blindSpan)
  | 0x29 => some (.status .queueDepth) | 0x2A => some (.status .ident) | 0x2B => some (.status .startCause)
  | 0x40 => some (.table .classTable) | 0x41 => some (.table .bandLimits) | 0x42 => some (.table .edgeZone)
  | 0x43 => some (.table .ruleCount) | 0x44 => some (.table .ruleFields) | 0x45 => some (.table .classLimits)
  | 0x46 => some (.table .outcomes) | 0x47 => some (.table .knots) | 0x48 => some (.table (.curve 0))
  | 0x49 => some (.table (.curve 1)) | 0x4A => some (.table (.curve 2)) | 0x4B => some (.table .thresholds)
  | 0x4C => some (.table .wetLimit) | 0x4D => some (.table .patterns) | 0x4E => some (.table .rowCount)
  | _ => none

/-- The code of a table object (Table 12-5). -/
def TableObject.code : TableObject → Nat
  | .classTable => 0x40 | .bandLimits => 0x41 | .edgeZone => 0x42 | .ruleCount => 0x43 | .ruleFields => 0x44
  | .classLimits => 0x45 | .outcomes => 0x46 | .knots => 0x47 | .curve n => 0x48 + n.val | .thresholds => 0x4B
  | .wetLimit => 0x4C | .patterns => 0x4D | .rowCount => 0x4E

/-- Number of elements of an object; for Sheets, the entries in the queue (R160, Table 12-5). -/
def Object.elements (s : State) : Object → Nat
  | .standby .gateDistance => 6
  | .standby _ => 1
  | .live .alertMask => 16
  | .live _ => 1
  | .status .gradeCounts => 16
  | .status .sheets => s.tracker.sheets.length
  | .status _ => 1
  | .table .classTable => 256 | .table .bandLimits => 3 | .table .edgeZone => 1 | .table .ruleCount => 1
  | .table .ruleFields => 72 | .table .classLimits => 96 | .table .outcomes => 4 | .table .knots => 8
  | .table (.curve _) => 128 | .table .thresholds => 4 | .table .wetLimit => 1 | .table .patterns => 32
  | .table .rowCount => 1

/-- Values of element `i` of an object; rule fields 3 to 6 are optional and take two (Table 12-5, 12.3). -/
def Object.size (o : Object) (i : Nat) : Nat :=
  match o with
  | .standby _ | .live _ => 1
  | .status .belt => 2 | .status .bankState => 7 | .status .gradeCounts => 2 | .status .sheets => 18
  | .status .blindSpan => 10 | .status .queueDepth => 2 | .status .ident => 8 | .status .startCause => 8
  | .status .mode | .status .reverseDebt | .status .flags | .status .rejectedCount => 1
  | .table .ruleFields => if 3 ≤ i % 9 && i % 9 ≤ 6 then 2 else 1
  | .table .classLimits => 7
  | .table .outcomes => 2
  | .table .patterns => 2
  | .table _ => 1

/-! ### Values (12.3) -/

/-- A number as one value. -/
def val (n : Nat) : Word := BitVec.ofNat 16 n

/-- Yes or no, on or off, set or clear, as 1 or 0. -/
def valBool (b : Bool) : Word := if b then 1 else 0

/-- A position or a counter, high half first. -/
def val32 (p : BitVec 32) : List Word := [(p >>> 16).setWidth 16, p.setWidth 16]

/-- Two bytes in one value. -/
def valPair (hi lo : Nat) : Word := val (hi * 256 + lo)

/-- An optional quantity of `n` values: presence, then the quantity or zeros (12.3). -/
def valOpt (n : Nat) : Option (List Word) → List Word
  | some v => 1 :: v
  | none => 0 :: List.replicate n 0

/-- An optional value. -/
def valOpt1 (o : Option Word) : List Word := valOpt 1 (o.map fun w => [w])

/-- A pattern: 0 to 7, or 00FFH for NONE. -/
def valPattern : Option (Fin 8) → Word
  | some p => val p.val
  | none => 0x00FF

/-- Mode codes (Table 12-5). -/
def Mode.code : Mode → Nat
  | .loading => 0 | .standby => 1 | .streaming => 2 | .draining => 3

/-- Cause codes (Table 12-6). -/
def Cause.code : Cause → Nat
  | .power => 1 | .pin => 2 | .command => 3

/-- Decision source codes (12.3). -/
def DecisionSource.code : DecisionSource → Nat
  | .rule n => n.val | .fallback => 8 | .fatal => 9 | .suspect => 10 | .late => 11

/-- Evaluation status codes (12.3). -/
def EvalStatus.code : EvalStatus → Nat
  | .none => 0 | .listed => 1 | .inEvaluation => 2 | .done => 3

/-- Route progress codes (12.3). -/
def RouteProgress.code : RouteProgress → Nat
  | .pending => 0 | .placed => 1 | .sent => 2 | .withdrawn => 3

/-- Reply status codes (Table 12-9). -/
def Status.code : Status → Nat
  | .done => 0 | .refusedMode => 1 | .bankBusy => 2 | .copyBusy => 3 | .badObject => 4 | .badIndex => 5
  | .badValue => 6 | .readProtected => 7 | .tableInvalid => 8 | .checkFailed => 9

/-- Bank number. -/
def BankId.num : BankId → Nat
  | .bank0 => 0 | .bank1 => 1

/-! ### Read values -/

/-- The value of a Group S setting element. -/
def SettingS.read (st : Settings) (i : Nat) : SettingS → Word
  | .pulseMode => match st.pulseMode with | .divide => 0 | .multiply => 1
  | .pulseRatio => st.pulseRatio | .reverseLimit => st.reverseLimit | .laneCount => st.laneCount
  | .scanLag => st.scanLag | .silenceDistance => st.silenceDistance | .maxSheetLength => st.maxSheetLength
  | .decisionDistance => st.decisionDistance | .gateDistance => elem st.gateDistance i 0
  | .routeLead => st.routeLead | .staleDistance => st.staleDistance | .markerDistance => st.markerDistance
  | .rowPitch => st.rowPitch | .dotLength => st.dotLength | .divertDistance => st.divertDistance
  | .retireDistance => st.retireDistance

/-- The value of a Group L setting element. -/
def SettingL.read (st : Settings) (i : Nat) : SettingL → Word
  | .alertMask => valBool (st.alertMask.getLsbD i)
  | .markerEnable => valBool st.markerEnable
  | .reportEnable => valBool st.reportEnable

/-- The values of a Class Table entry: class or 00FFH in bits 7 to 0, fatal mark in bit 15. -/
def ClassEntry.value (e : ClassEntry) : Word :=
  (match e.cls with | some k => val k.val | none => 0x00FF) ||| (if e.fatal then 0x8000 else 0)

/-- The values of field `f` of a rule (12.3). -/
def Rule.field (r : Rule) (f : Nat) : List Word :=
  match f with
  | 0 => [val r.grade.val] | 1 => [val r.gate.val] | 2 => [valPattern r.pattern]
  | 3 => valOpt1 r.minLength | 4 => valOpt1 r.minLanes | 5 => valOpt1 r.moistMax | 6 => valOpt1 r.wetMax
  | 7 => [match r.policy with | .allow => 0 | .refuse => 1]
  | _ => [val r.itemCount.val]

/-- The values of a class limit item (12.3). -/
def ClassLimit.values (l : ClassLimit) : List Word :=
  val l.cls.val :: (valOpt1 l.countMax ++ valOpt1 l.sizeMax ++ valOpt1 l.areaMax)

/-- The values of element `i` of a table object in a bank (Table 12-5). -/
def TableObject.read (b : Bank) (i : Nat) : TableObject → List Word
  | .classTable => [(elem b.classTable i ⟨none, false⟩).value]
  | .bandLimits => [elem b.bandLimits i 0]
  | .edgeZone => [b.edgeZone]
  | .ruleCount => [val b.ruleCount.val]
  | .ruleFields => (elem b.rules (i / 9) Rule.powerOn).field (i % 9)
  | .classLimits => (elem (elem b.rules (i / 12) Rule.powerOn).items (i % 12) ⟨0, none, none, none⟩).values
  | .outcomes => let o := elem b.outcomes i ⟨0, none⟩; [val o.gate.val, valPattern o.pattern]
  | .knots => [elem b.knots i 0]
  | .curve n => [elem (b.curves.get n) i 0]
  | .thresholds => [elem b.thresholds i 0]
  | .wetLimit => [b.wetLimit]
  | .patterns => let p := elem b.patterns i 0; [(p >>> 16).setWidth 16, p.setWidth 16]
  | .rowCount => [val b.rowCount.val]

/-- The eight Ident values (R165, Table 12-6). -/
def identValues (s : State) : List Word :=
  [Config.vendorCode, Config.partCode, Config.revision, s.agent.station.setWidth 16,
   valBool s.agent.groupResponder, s.scan.deckValue.setWidth 16, valBool s.agent.protect,
   s.tables.generation.setWidth 16]

/-- The values of a decision in a Sheets element: grade and gate; row count copy and pattern NONE; source. -/
def decisionValues : Option Decision → List Word
  | some d => [1, valPair d.grade.val d.gate.val,
      val (d.rowCount % 256) ||| (if d.pattern.isNone then 0x8000 else 0), val d.source.code]
  | none => [0, 0, 0, 0]

/-- The Sheets element of an entry (R57, Table 12-6). -/
def Entry.values (e : Entry) : List Word :=
  [valPair (match e.state with | .opened => 0 | .closed => 1) e.tag.toNat] ++ val32 e.leading ++
  valOpt 2 (e.trailing.map val32) ++
  [valPair e.first.toNat e.last.toNat, valPair e.bank.num e.generation.toNat] ++
  decisionValues e.decision ++
  valOpt 1 (e.wouldBe.map fun g => [val g.val]) ++
  [valPair e.evalStatus.code e.route.code, e.flags.word ||| bit16 e.window.isSome 15, val e.total, val e.moisture.count]

/-- The Blind Span element (R57, Table 12-6). -/
def blindValues : Option BlindSpan → List Word
  | some b => [1] ++ val32 b.start ++ valOpt 2 (b.stop.map val32) ++ [val b.outstanding] ++ val32 b.latest ++
      [match b.sealState with | .unsealed => 0 | .sealed => 1]
  | none => List.replicate 10 0

/-- The Start Cause element (Table 12-6). -/
def StartRecord.values (r : StartRecord) : List Word :=
  [val r.cause.code] ++ valOpt 1 (r.requestNumber.map fun n => [n.setWidth 16]) ++
  valOpt 1 (r.modeBefore.map fun m => [val m.code]) ++ valOpt 1 (r.lost.map fun n => [val n]) ++
  [valBool r.optionFaulted]

/-- The Bank State element (R126, Table 12-6). -/
def TableStore.values (t : TableStore) : List Word :=
  [val t.active.num, (match t.otherState with | .staging => 0 | .retiring => 1), val t.holders0, val t.holders1,
   t.generation.setWidth 16, valBool t.commitPending, valBool t.copyInFlight]

/-- The values of element `i` of a read-only object, as they stand (R161). -/
def StatusObject.read (s : State) (i : Nat) : StatusObject → List Word
  | .mode => [val s.agent.mode.code]
  | .belt => val32 s.position.belt
  | .reverseDebt => [val s.position.debt]
  | .bankState => s.tables.values
  | .flags => [s.attention.flags]
  | .gradeCounts => val32 (elem s.attention.grades i 0)
  | .rejectedCount => [val s.scan.rejected]
  | .sheets => match s.tracker.sheets[i]? with | some e => e.values | none => []
  | .blindSpan => blindValues s.tracker.blind
  | .queueDepth => [val s.link.queue.length, val (s.link.queue.filter OutRecord.isRoute).length]
  | .ident => identValues s
  | .startCause => s.attention.startup.values

/-- The bank a selector names: ACTIVE 00H, STAGING 01H (R125); none for another code (R161). -/
def selectedBank (s : State) (selector : Byte) : Option Bank :=
  match selector.toNat with
  | 0 => some (s.tables.bank s.tables.active)
  | 1 => some (s.tables.bank s.tables.other)
  | _ => none

/-! ### Range checks and storing of a Write (R116, R162, R188) -/

/-- A value within bounds, or the position of the failing value. -/
def within (pos lo hi : Nat) (w : Word) : Except Nat Word :=
  if lo ≤ w.toNat ∧ w.toNat ≤ hi then .ok w else .error pos

/-- A value below `n`, as a number. -/
def below (pos n : Nat) (w : Word) : Except Nat (Fin n) :=
  if h : w.toNat < n then .ok ⟨w.toNat, h⟩ else .error pos

/-- On or off, set or clear: 0 or 1 (R188). -/
def onOff (pos : Nat) (w : Word) : Except Nat Bool :=
  if w = 0 then .ok false else if w = 1 then .ok true else .error pos

/-- An optional quantity: presence 0000H or 0001H, and the quantity when present (R188). -/
def optional (pos lo hi : Nat) (presence w : Word) : Except Nat (Option Word) :=
  if presence = 0 then .ok none
  else if presence = 1 then (within (pos + 1) lo hi w).map some
  else .error pos

/-- A pattern, or the code of NONE (R108). -/
def patternOf (pos : Nat) (w : Word) : Except Nat (Option (Fin 8)) :=
  if w = 0x00FF then .ok none else (below pos 8 w).map some

/-- A Class Table value (R77, R188). -/
def classEntryOf (pos : Nat) (w : Word) : Except Nat ClassEntry :=
  if w &&& 0x7F00 ≠ 0 then .error pos
  else
    let fatal := w.getLsbD 15
    let code := w &&& 0x00FF
    if code = 0x00FF then .ok ⟨none, fatal⟩ else (below pos 12 code).map fun k => ⟨some k, fatal⟩

/-- Store one value in field `f` of a rule, with its range check (R108). -/
def Rule.storeField (r : Rule) (f : Nat) (vs : List Word) : Except Nat Rule :=
  match f, vs with
  | 0, [w] => (below 0 12 w).map fun v => { r with grade := v }
  | 1, [w] => (below 0 6 w).map fun v => { r with gate := v }
  | 2, [w] => (patternOf 0 w).map fun v => { r with pattern := v }
  | 3, [p, w] => (optional 0 0 65535 p w).map fun v => { r with minLength := v }
  | 4, [p, w] => (optional 0 1 16 p w).map fun v => { r with minLanes := v }
  | 5, [p, w] => (optional 0 0 999 p w).map fun v => { r with moistMax := v }
  | 6, [p, w] => (optional 0 0 65535 p w).map fun v => { r with wetMax := v }
  | 7, [w] => (onOff 0 w).map fun v => { r with policy := if v then .refuse else .allow }
  | 8, [w] => (below 0 13 w).map fun v => { r with itemCount := v }
  | _, _ => .error 0

/-- A class limit item from its seven values (R108, R188). -/
def classLimitOf : List Word → Except Nat ClassLimit
  | [k, pc, c, ps, z, pa, a] =>
    match below 0 12 k, optional 1 0 255 pc c, optional 3 0 4095 ps z, optional 5 0 65535 pa a with
    | .error p, _, _, _ => .error p
    | _, .error p, _, _ => .error p
    | _, _, .error p, _ => .error p
    | _, _, _, .error p => .error p
    | .ok k, .ok c, .ok z, .ok a => .ok ⟨k, c, z, a⟩
  | _ => .error 0

/-- Store the values of element `i` of a table object in a bank, each range-checked (R77, R86, R108, R154, R188). The
error is the position, within the element, of the first value that fails. -/
def TableObject.store (o : TableObject) (i : Nat) (vs : List Word) (b : Bank) : Except Nat Bank :=
  match o, vs with
  | .classTable, [w] => (classEntryOf 0 w).map fun v => { b with classTable := b.classTable.setIfInBounds i v }
  | .bandLimits, [w] => (within 0 1 4095 w).map fun v => { b with bandLimits := b.bandLimits.setIfInBounds i v }
  | .edgeZone, [w] => (within 0 0 1000 w).map fun v => { b with edgeZone := v }
  | .ruleCount, [w] => (below 0 9 w).map fun v => { b with ruleCount := v }
  | .ruleFields, vs =>
    ((elem b.rules (i / 9) Rule.powerOn).storeField (i % 9) vs).map fun r =>
      { b with rules := b.rules.setIfInBounds (i / 9) r }
  | .classLimits, vs =>
    (classLimitOf vs).map fun l =>
      let r := elem b.rules (i / 12) Rule.powerOn
      { b with rules := b.rules.setIfInBounds (i / 12) { r with items := r.items.setIfInBounds (i % 12) l } }
  | .outcomes, [g, p] =>
    match below 0 6 g, patternOf 1 p with
    | .error k, _ => .error k
    | _, .error k => .error k
    | .ok g, .ok p => .ok { b with outcomes := b.outcomes.setIfInBounds i ⟨g, p⟩ }
  | .knots, [w] => .ok { b with knots := b.knots.setIfInBounds i w }
  | .curve n, [w] =>
    (within 0 0 999 w).map fun v =>
      { b with curves := b.curves.setIfInBounds n.val ((b.curves.get n).setIfInBounds i v) }
  | .thresholds, [w] => (within 0 0 500 w).map fun v => { b with thresholds := b.thresholds.setIfInBounds i v }
  | .wetLimit, [w] => (within 0 0 999 w).map fun v => { b with wetLimit := v }
  | .patterns, [hi, lo] =>
    if 0xFF < hi.toNat then .error 0
    else .ok { b with patterns := b.patterns.setIfInBounds i (hi.setWidth 8 ++ lo) }
  | .rowCount, [w] => (below 0 8 w).map fun v => { b with rowCount := v }
  | _, _ => .error 0

/-- Store one Group S value, with the range checks of Table 2-3 and R25 against the settings in force. -/
def SettingS.store (o : SettingS) (i : Nat) (w : Word) (st : Settings) : Except Nat Settings :=
  match o with
  | .pulseMode =>
    if w = 0 then .ok { st with pulseMode := .divide }
    else if w = 1 then
      (within 0 2 128 st.pulseRatio).map fun _ => { st with pulseMode := .multiply }
    else .error 0
  | .pulseRatio =>
    match st.pulseMode with
    | .divide => (within 0 1 4096 w).map fun v => { st with pulseRatio := v }
    | .multiply => (within 0 2 128 w).map fun v => { st with pulseRatio := v }
  | .reverseLimit => (within 0 1 65535 w).map fun v => { st with reverseLimit := v }
  | .laneCount => (within 0 1 16 w).map fun v => { st with laneCount := v }
  | .scanLag => .ok { st with scanLag := w }
  | .silenceDistance => (within 0 16 65535 w).map fun v => { st with silenceDistance := v }
  | .maxSheetLength => (within 0 50 4000 w).map fun v => { st with maxSheetLength := v }
  | .decisionDistance => .ok { st with decisionDistance := w }
  | .gateDistance => .ok { st with gateDistance := st.gateDistance.setIfInBounds i w }
  | .routeLead => .ok { st with routeLead := w }
  | .staleDistance => (within 0 1 65535 w).map fun v => { st with staleDistance := v }
  | .markerDistance => .ok { st with markerDistance := w }
  | .rowPitch => (within 0 1 255 w).map fun v => { st with rowPitch := v }
  | .dotLength => (within 0 1 255 w).map fun v => { st with dotLength := v }
  | .divertDistance => .ok { st with divertDistance := w }
  | .retireDistance => .ok { st with retireDistance := w }

/-- Store one Group L value (R162, R179, R188). -/
def SettingL.store (o : SettingL) (i : Nat) (w : Word) (st : Settings) : Except Nat Settings :=
  match o with
  | .alertMask =>
    (onOff 0 w).map fun v =>
      { st with alertMask := if v then st.alertMask ||| flagBit i else st.alertMask &&& ~~~(flagBit i) }
  | .markerEnable => (onOff 0 w).map fun v => { st with markerEnable := v }
  | .reportEnable => (onOff 0 w).map fun v => { st with reportEnable := v }

/-- How many whole elements a list of `len` values forms from element `i` on; none when it does not end at the end of an
element (R160). -/
def elementsFormed (size : Nat → Nat) : Nat → Nat → Nat → Option Nat
  | _, _, 0 => some 0
  | 0, _, _ + 1 => none
  | fuel + 1, i, len + 1 =>
    if 0 < size i ∧ size i ≤ len + 1 then (elementsFormed size fuel (i + 1) (len + 1 - size i)).map (· + 1) else none

/-- Total values of `n` elements from element `i` on. -/
def valuesOf (size : Nat → Nat) : Nat → Nat → Nat
  | 0, _ => 0
  | n + 1, i => size i + valuesOf size n (i + 1)

/-- Check and store `n` elements from element `i` on, together or not at all (R116, R162). The error is the position, in
the value list, of the first value that fails. -/
def storeAll {α : Type} (size : Nat → Nat) (store : Nat → List Word → α → Except Nat α) :
    Nat → Nat → Nat → List Word → α → Except Nat α
  | 0, _, _, _, a => .ok a
  | n + 1, i, pos, vs, a =>
    match store i (vs.take (size i)) a with
    | .error k => .error (pos + k)
    | .ok b => storeAll size store n (i + 1) (pos + size i) (vs.drop (size i)) b

/-! ### Route Link bytes (R186, R189, Tables 12-7 to 12-9) -/

/-- A number as one byte. -/
def byteOf (n : Nat) : Byte := BitVec.ofNat 8 n

/-- A number as two bytes, high first. -/
def bytes16 (n : Nat) : List Byte := wordBytes (BitVec.ofNat 16 n)

/-- A position as four bytes, high first. -/
def bytes32 (p : BitVec 32) : List Byte := (val32 p).flatMap wordBytes

/-- One presence bit. -/
def presenceBit (b : Bool) (n : Nat) : Nat := if b then 2 ^ n else 0

/-- The kind code of a Route Link record (Table 12-2). -/
def OutRecord.kindCode : OutRecord → Byte
  | .route .. => 0x11 | .report _ => 0x12 | .reply .. => 0x13 | .alert .. => 0x14 | .start _ => 0x15

/-- The payload of a Route Link record (Table 12-8); an absent field is zero bytes of its full width (R189). -/
def OutRecord.payload : OutRecord → List Byte
  | .route tag gate grade leading => [tag, byteOf gate.val, byteOf grade.val] ++ bytes32 leading
  | .report r =>
    [r.tag, byteOf r.grade.val, byteOf r.gate.val, r.generation] ++ bytes32 r.leading ++ bytes32 r.length ++
    [r.first ++ r.last] ++ wordBytes r.flags.word ++
    [byteOf (presenceBit r.wouldBe.isSome 0 + presenceBit (0 < r.samples) 1),
     byteOf ((r.wouldBe.map (·.val)).getD 0)] ++
    bytes16 r.samples ++ bytes16 (r.mean.getD 0) ++ bytes16 (r.maximum.getD 0) ++ bytes16 r.wet ++
    [byteOf r.items.length] ++
    r.items.flatMap (fun i => [byteOf i.cls.val, byteOf i.tally.count] ++ bytes16 i.tally.largest ++ bytes16 i.tally.area)
  | .reply number station status values =>
    [number, station.setWidth 8, byteOf status.code, byteOf values.length] ++ values.flatMap wordBytes
  | .alert flag pos => byteOf flag.code :: bytes32 pos
  | .start r =>
    [byteOf r.cause.code,
     byteOf (presenceBit r.requestNumber.isSome 0 + presenceBit r.modeBefore.isSome 1 + presenceBit r.lost.isSome 2),
     r.requestNumber.getD 0, byteOf ((r.modeBefore.map Mode.code).getD 0), byteOf (r.lost.getD 0),
     byteOf (if r.optionFaulted then 1 else 0)]

/-- The bytes of a Route Link record, with the part's deck value and the check (R186). -/
def OutRecord.bytes (deck : BitVec 1) (r : OutRecord) : List Byte := frameRecord r.kindCode deck r.payload

/-- What the Route Link carries: the bytes of the record in sending, or nothing. -/
def linkBytes (s : State) : List Byte :=
  match s.link.sending with
  | some r => r.bytes s.scan.deckValue
  | none => []

end Sys2Proof.Machine
end

