-- ==== Sys2Proof/Machine/Routing.lean ====
section
/-! DEFINITION. The Route Scheduler and the Route Port (chapter 8): fire points, stale expiry, divert windows, the Blind
Span divert interval, and the pins and completions of the Route Link. -/
namespace Sys2Proof.Machine

/-! ### Fire points and diverts -/

/-- The fire point of an entry for a gate: leading edge + Gate Distance − Route Lead (R130). -/
def firePosition (st : Settings) (leading : Position) (gate : Fin 6) : Position :=
  leading + bu (st.gateDistance.get gate) - bu st.routeLead

/-- The Route Scheduler is told that an entry has been decided, first or again (R130). -/
def routeDecided (c : Ctx) (tag : Tag) (s : State) : State :=
  withEntry tag (fun e s =>
    match e.decision with
    | some d =>
      if e.route = .pending && !e.flags.diverted then
        arm c (.fire tag) (firePosition s.settings e.leading d.gate) (disarm (.fire tag) s)
      else s
    | none => s) s

/-- An entry is diverted: flag set, window armed with its two positions, DIVERTED raised (R131, R135, R137). The closing
position of one still OPEN, which has no trailing edge, is counted from its leading edge (log 29: the model's choice). -/
def divertEntry (c : Ctx) (tag : Tag) (s : State) : State :=
  withEntry tag (fun e s =>
    let trailing := e.trailing.getD e.leading
    let s := modifyEntry tag (fun e =>
      { e with flags := { e.flags with diverted := true }, window := some .waiting }) s
    let s := arm c (.windowOpening tag) (e.leading + bu s.settings.divertDistance) s
    let s := arm c (.windowClosing tag) (trailing + bu s.settings.divertDistance) s
    raise c .diverted s) s

/-- Remove the waiting ROUTE record of an entry from the Output Queue (R136). -/
def withdraw (tag : Tag) (s : State) : State :=
  s.setLink { s.link with queue := s.link.queue.filter fun r => !r.isRouteOf tag }

/-- In what event the taking of a fire point arms its stale expiry: its own, so that one the same advance reaches is taken
in it (R28); but a stale expiry behind the belt, of a fire point that was armed behind the belt, is reached at the next
advance (R132, log 17). -/
def staleCtx (w : Watch) (stale : Position) (s : State) : Ctx :=
  { Ctx.at .scheduler w.pos with
    watcher := if w.passed && before stale s.position.belt then none else some .scheduler }

/-- The belt reaches the fire point of an entry (R131). -/
def firePoint (tag : Tag) (w : Watch) (s : State) : State :=
  let c := Ctx.at .scheduler w.pos
  withEntry tag (fun e s =>
    match e.decision with
    | some d =>
      if e.route = .pending && !e.flags.diverted then
        if roomForRoute s then
          let s := enqueue (.route tag d.gate d.grade e.leading) s
          let s := modifyEntry tag (fun e => { e with route := .placed }) s
          let stale := w.pos + bu s.settings.staleDistance
          tryBegin (arm (staleCtx w stale s) (.stale tag) stale s)
        else divertEntry c tag s
      else s
    | none => s) s

/-- FIRE_POINT (R131). -/
def execFirePoint (tag : Tag) (s : State) : Host.Outcome State Fault Refusal :=
  .next (takeNamed (.fire tag) (firePoint tag) s)

/-- The belt reaches the stale expiry of a PLACED entry (R135). -/
def staleExpiry (tag : Tag) (w : Watch) (s : State) : State :=
  withEntry tag (fun e s =>
    if e.route = .placed then
      divertEntry (Ctx.at .scheduler w.pos) tag
        (modifyEntry tag (fun e => { e with route := .withdrawn }) (withdraw tag s))
    else s) s

/-- STALE_EXPIRY (R135). -/
def execStaleExpiry (tag : Tag) (s : State) : Host.Outcome State Fault Refusal :=
  .next (takeNamed (.stale tag) (staleExpiry tag) s)

/-- The belt reaches the opening position of a divert window (R137). -/
def windowOpening (tag : Tag) (_w : Watch) (s : State) : State :=
  modifyEntry tag (fun e => if e.window = some .waiting then { e with window := some .opened } else e) s

/-- DIVERT_WINDOW_OPENING (R137). -/
def execDivertWindowOpening (tag : Tag) (s : State) : Host.Outcome State Fault Refusal :=
  .next (takeNamed (.windowOpening tag) (windowOpening tag) s)

/-- The belt reaches the closing position of a divert window (R137). -/
def windowClosing (tag : Tag) (_w : Watch) (s : State) : State :=
  modifyEntry tag (fun e => { e with window := none }) s

/-- DIVERT_WINDOW_CLOSING (R137). -/
def execDivertWindowClosing (tag : Tag) (s : State) : Host.Outcome State Fault Refusal :=
  .next (takeNamed (.windowClosing tag) (windowClosing tag) s)

/-! ### The Blind Span divert interval (R139, R140) -/

/-- A Blind Span has been created (R139). -/
def intervalCreated (c : Ctx) (start : Position) (s : State) : State :=
  let opening := start + bu s.settings.divertDistance
  arm c .intervalOpening opening
    (disarm .intervalOpening (disarm .intervalClosing (s.setInterval ⟨.waiting, opening, none⟩)))

/-- The span has been unsealed: open-ended again, and an ENDED interval is OPEN at once (R139). -/
def intervalUnsealed (s : State) : State :=
  let phase := if s.interval.phase = .ended then .opened else s.interval.phase
  disarm .intervalClosing (s.setInterval { s.interval with phase := phase, closing := none })

/-- The span has become SEALED: the closing position is armed (R140). -/
def intervalSealed (c : Ctx) (stop : Position) (s : State) : State :=
  let closing := stop + bu s.settings.divertDistance
  arm c .intervalClosing closing
    (disarm .intervalClosing (s.setInterval { s.interval with closing := some closing }))

/-- The interval ENDS, with its positions cancelled (R140, R145, log 25). -/
def intervalEnds (s : State) : State :=
  disarm .intervalOpening (disarm .intervalClosing (s.setInterval { s.interval with phase := .ended }))

/-- The belt reaches the opening position of the interval (R139). -/
def intervalOpening (_w : Watch) (s : State) : State :=
  if s.interval.phase = .waiting then s.setInterval { s.interval with phase := .opened } else s

/-- BLIND_INTERVAL_OPENING (R139). -/
def execBlindIntervalOpening (s : State) : Host.Outcome State Fault Refusal :=
  .next (takeNamed .intervalOpening intervalOpening s)

/-- The belt reaches the closing position of the interval (R140). -/
def intervalClosing (_w : Watch) (s : State) : State := intervalEnds s

/-- BLIND_INTERVAL_CLOSING (R140). -/
def execBlindIntervalClosing (s : State) : Host.Outcome State Fault Refusal :=
  .next (takeNamed .intervalClosing intervalClosing s)

/-! ### Retirement and flush -/

/-- The Route Scheduler's part of a retirement: an unsent route is lost and DIVERTED raised (R141). `e` is the entry as
removed; its window goes with it, and its positions are cancelled by the caller. -/
def routeRetired (c : Ctx) (e : Entry) (s : State) : State :=
  if e.route = .placed then raise c .diverted (withdraw e.tag s)
  else if e.route = .pending && !e.flags.diverted then raise c .diverted s
  else s

/-- The Route Scheduler's and the Route Port's part of a flush: ROUTE records are withdrawn and the interval ENDS
(R145). -/
def flushRoute (s : State) : State :=
  intervalEnds (s.setLink { s.link with queue := s.link.queue.filter fun r => !r.isRoute })

/-! ### The Route Link (R134) -/

/-- The READY level changes. -/
def setReady (b : Bool) (s : State) : State := s.setPins { s.pins with ready := b }

/-- READY_RISE (R134). -/
def execReadyRise (s : State) : Host.Outcome State Fault Refusal := .next (tryBegin (setReady true s))

/-- BEGIN_SENDING (R134): the conditions are brought about, and sending begun, inside other commands (log 12). -/
def execBeginSending (s : State) : Host.Outcome State Fault Refusal := .next (tryBegin s)

/-- The record in sending completes, with READY at the given level; the next begins at once when it can (R134). -/
def completeSending (ready : Bool) (s : State) : State :=
  match s.link.sending with
  | some _ => tryBegin (setReady ready (s.setLink { s.link with sending := none }))
  | none => s

/-- SENDING_COMPLETION (R134); the level of READY at the completion is its operand (log 10). -/
def execSendingCompletion (ready : Bool) (s : State) : Host.Outcome State Fault Refusal :=
  .next (completeSending ready s)

end Sys2Proof.Machine
end

