-- ==== Sys2Proof/Machine/Marking.lean ====
section
/-! DEFINITION. The Marker Driver (chapter 9): stamp starts, rows and dots, and the end of a stamp. -/
namespace Sys2Proof.Machine

/-- The Marker Driver is told that an entry has been decided; the first time it arms the stamp start, when Marker
Distance is above 0 (R149). -/
def markerDecided (c : Ctx) (tag : Tag) (first : Bool) (s : State) : State :=
  if first && s.settings.markerDistance ≠ 0 then
    withEntry tag (fun e s => arm c (.stampStart tag) (e.leading + bu s.settings.markerDistance) s) s
  else s

/-- The belt reaches the stamp start of an entry: the four tests of R150 in order, an overrun under R152. -/
def stampStart (tag : Tag) (w : Watch) (s : State) : State :=
  let c := Ctx.at .marker w.pos
  withEntry tag (fun e s =>
    if !s.settings.markerEnable then
      modifyEntry tag (fun e => { e with flags := { e.flags with unmarked := true } }) s
    else
      match e.decision with
      | some d =>
        match d.pattern, s.marker with
        | none, _ => s
        | some _, some _ =>
          raise c .markOverrun (modifyEntry tag (fun e => { e with flags := { e.flags with markSkipped := true } }) s)
        | some rows, none =>
          arm c .dotEnd (w.pos + bu s.settings.dotLength) (s.setMarker (some ⟨tag, rows, d.rowCount, w.pos, 0, true⟩))
      | none => s) s

/-- STAMP_START (R150). -/
def execStampStart (tag : Tag) (s : State) : Host.Outcome State Fault Refusal :=
  .next (takeNamed (.stampStart tag) (stampStart tag) s)

/-- The position of row `k` of a stamp: stamp start + k × Row Pitch (R151). -/
def rowPositionOf (st : Settings) (p : Stamp) (k : Nat) : Position :=
  p.start + BitVec.ofNat 32 (k * st.rowPitch.toNat)

/-- The belt reaches the end of the current row's dot: the next row is armed, or the stamp is complete (R151). -/
def dotEnd (w : Watch) (s : State) : State :=
  match s.marker with
  | some p =>
    if p.rowCount ≤ p.row + 1 then s.setMarker none
    else
      arm (Ctx.at .marker w.pos) .row (rowPositionOf s.settings p (p.row + 1))
        (s.setMarker (some { p with dotOn := false }))
  | none => s

/-- DOT_END (R151). -/
def execDotEnd (s : State) : Host.Outcome State Fault Refusal := .next (takeNamed .dotEnd dotEnd s)

/-- The belt reaches the position of the next row: its nozzles are asserted and the end of its dot is armed (R151). -/
def nextRow (w : Watch) (s : State) : State :=
  match s.marker with
  | some p =>
    arm (Ctx.at .marker w.pos) .dotEnd (w.pos + bu s.settings.dotLength)
      (s.setMarker (some { p with row := p.row + 1, dotOn := true }))
  | none => s

/-- ROW_POSITION (R151). -/
def execRowPosition (s : State) : Host.Outcome State Fault Refusal := .next (takeNamed .row nextRow s)

/-- The stamp in print ends, with its positions cancelled (R155). -/
def endStamp (s : State) : State := disarm .dotEnd (disarm .row (s.setMarker none))

/-- The Marker Driver's part of a retirement (R155). -/
def markerRetired (tag : Tag) (s : State) : State :=
  match s.marker with
  | some p => if p.tag = tag then endStamp s else s
  | none => s

end Sys2Proof.Machine
end

