-- ==== Sys2Proof/Machine/Deciding.lean ====
section
/-! DEFINITION. The decision of an entry (R45, Table 3-2) and suspect marking (R48, Table 3-4). -/
namespace Sys2Proof.Machine

/-- The copy of a stamp pattern: its four rows (R45). -/
def Bank.patternRows (b : Bank) (p : Fin 8) : Vector NozzleSet 4 :=
  #v[elem b.patterns (p.val * 4) 0, elem b.patterns (p.val * 4 + 1) 0,
     elem b.patterns (p.val * 4 + 2) 0, elem b.patterns (p.val * 4 + 3) 0]

/-- A decision with the given grade, gate and pattern, from a bank's marker section (R45). -/
def Bank.decision (b : Bank) (grade : Fin 16) (gate : Fin 6) (pattern : Option (Fin 8)) (source : DecisionSource) :
    Decision :=
  ⟨grade, gate, pattern.map b.patternRows, b.rowCount.val, source⟩

/-- The decision of an Outcome Table record. -/
def Bank.reserved (b : Bank) (grade : Fin 16) (i : Fin 4) (source : DecisionSource) : Decision :=
  let o := b.outcomes.get i
  b.decision grade o.gate o.pattern source

/-- The decision each source gives (Table 3-2). -/
def Bank.decide (b : Bank) : DecisionSource → Decision
  | .rule n =>
    let r := b.rules.get n
    b.decision (r.grade.castLE (by decide)) r.gate r.pattern (.rule n)
  | .fatal => b.reserved 12 0 .fatal
  | .suspect => b.reserved 13 1 .suspect
  | .late => b.reserved 14 2 .late
  | .fallback => b.reserved 15 3 .fallback

/-- The bank a decision is read from: the bound bank while the entry holds it, otherwise the ACTIVE bank (R45, R120). -/
def decisionBank (s : State) (e : Entry) : Bank :=
  s.tables.bank (if e.holding then e.bank else s.tables.active)

/-- The fields of an entry that its decision sets (R45). A LISTED entry's status returns to NONE; an entry in
evaluation keeps its status. -/
def Entry.decided (e : Entry) (d : Decision) : Entry :=
  { e with
    decision := some d
    flags := { e.flags with
      fatal := e.flags.fatal || d.source = .fatal
      late := e.flags.late || d.source = .late }
    evalStatus := if e.evalStatus = .listed then .none else e.evalStatus }

/-- Take a tag off the Grading List, from whatever place it holds (R92). -/
def unlist (tag : Tag) (s : State) : State :=
  s.setEvaluator { s.evaluator with list := s.evaluator.list.filter fun t => t ≠ tag }

/-- The entry of a tag, `e` as it stands, takes a decision; the Route Scheduler and the Marker Driver are told (R45). -/
def decideAs (c : Ctx) (d : Decision) (tag : Tag) (e : Entry) (s : State) : State :=
  let s := unlist tag (modifyEntry tag (fun e => e.decided d) s)
  markerDecided c tag e.decision.isNone (routeDecided c tag s)

/-- An entry is decided from a source (R45). -/
def decideEntry (c : Ctx) (source : DecisionSource) (tag : Tag) (s : State) : State :=
  withEntry tag (fun e s => decideAs c ((decisionBank s e).decide source) tag e s) s

/-- The decision that replaces one when its entry is marked suspect (R48): the SUSPECT decision of its bank, or, for an
entry decided SUSPECT already, the decision it has, since the fresh one changes nothing. -/
def replacingDecision (s : State) (e : Entry) : Decision :=
  (e.decision.filter fun d => d.source = .suspect).getD ((decisionBank s e).decide .suspect)

/-- Set the suspect flag of an entry, and the cause's own flag (R48). -/
def flagSuspect (own : EntryFlags → EntryFlags) (tag : Tag) (s : State) : State :=
  modifyEntry tag (fun e => { e with flags := { own e.flags with suspect := true } }) s

/-- An entry is marked suspect: its flags, and the effect its condition gives (Table 3-4, tested from the top). For one
decided SUSPECT already the decision stays and its fire point is armed again at the same position (R130, log 26). -/
def markSuspect (c : Ctx) (own : EntryFlags → EntryFlags) (tag : Tag) (s : State) : State :=
  withEntry tag (fun e s =>
    let s := flagSuspect own tag s
    if e.isOpen then s
    else if e.decision.isNone then endHold c tag (decideEntry c .suspect tag s)
    else if e.route = .pending && !e.flags.diverted then decideAs c (replacingDecision s e) tag e s
    else s) s

/-- Mark several entries, in the order given (R47). -/
def markAll (c : Ctx) (own : EntryFlags → EntryFlags) (tags : List Tag) (s : State) : State :=
  tags.foldl (fun s tag => markSuspect c own tag s) s

/-- The frame-gap notice: every OPEN entry (R47). -/
def frameGapNotice (c : Ctx) (s : State) : State :=
  markAll c (fun f => { f with frameGap := true }) (tagsWhere Entry.isOpen s) s

/-- The reversal notice: every entry in the queue, in queue order (R47). -/
def reversalNotice (c : Ctx) (s : State) : State :=
  markAll c (fun f => { f with reversed := true }) (tagsWhere (fun _ => true) s) s

end Sys2Proof.Machine
end

