-- ==== Sys2Proof/Machine/Classification.lean ====
section
/-! DEFINITION. The Defect Classifier (chapter 4): size bands, zones, the Edge Hold List, the tally and FATAL. -/
namespace Sys2Proof.Machine

/-- Zones of a feature (4.3); the code is that of the Class Table index (R68). -/
inductive Zone where
  | core | edge
  deriving DecidableEq, Repr

/-- The zone's part of the Class Table index: 0 core, 1 edge (R68). -/
def Zone.code : Zone → Nat
  | .core => 0
  | .edge => 1

/-- The size of a feature: the larger of its two dimensions (R60). -/
def featureSize (along across : Word) : Nat := max along.toNat across.toNat

/-- The area of a feature in cm², rounded down (R61). -/
def featureArea (along across : Word) : Nat := along.toNat * across.toNat / 100

/-- The size band of a size (R60). -/
def sizeBand (limits : Vector Word 3) (size : Nat) : Fin 4 :=
  if size < (limits.get 0).toNat then 0
  else if size < (limits.get 1).toNat then 1
  else if size < (limits.get 2).toNat then 2
  else 3

/-- The index of a Class Table entry (R68). -/
def classIndex (kind : BitVec 5) (band : Fin 4) (zone : Zone) : Nat := kind.toNat * 8 + band.val * 2 + zone.code

/-- The Class Table entry of a feature (R68). -/
def Bank.classOf (b : Bank) (kind : BitVec 5) (band : Fin 4) (zone : Zone) : ClassEntry :=
  elem b.classTable (classIndex kind band zone) ⟨none, false⟩

/-- A feature added to the tally of its class (R69). -/
def ClassTally.add (t : ClassTally) (size area : Nat) : ClassTally :=
  ⟨satInc 255 t.count, max t.largest size, satAdd 65535 t.area area⟩

/-- A feature tallied into an entry: its class, unless IGNORE, and the total (R69, R70). -/
def Entry.tallied (e : Entry) (cls : Option (Fin 12)) (size area : Nat) : Entry :=
  let tally := match cls with
    | some k => e.tally.set k.val ((e.tally.get k).add size area)
    | none => e.tally
  { e with tally := tally, total := satInc 65535 e.total }

/-- Tally a feature with a zone, from the bound bank, then apply the fatal mark (R59, R68 to R71). -/
def tallyFeature (c : Ctx) (tag : Tag) (kind : BitVec 5) (band : Fin 4) (along across : Word) (zone : Zone)
    (s : State) : State :=
  withEntry tag (fun e s =>
    let entry := (s.tables.bank e.bank).classOf kind band zone
    let s := modifyEntry tag (fun e => e.tallied entry.cls (featureSize along across) (featureArea along across)) s
    if entry.fatal && e.decision.isNone then decideEntry c .fatal tag s else s) s

/-- Tally a held feature. -/
def tallyHeld (c : Ctx) (tag : Tag) (zone : Zone) (h : HeldFeature) (s : State) : State :=
  tallyFeature c tag h.kind h.band h.along h.across zone s

/-- A full Edge Hold List gives up its oldest item as core (R65). -/
def overflowHold (c : Ctx) (tag : Tag) (s : State) : State :=
  withEntry tag (fun e s =>
    match e.held with
    | h :: rest =>
      if Config.edgeHoldMax ≤ e.held.length then
        tallyHeld c tag .core h
          (disarmFirst (.release tag) h.releasePos (modifyEntry tag (fun e => { e with held := rest }) s))
      else s
    | [] => s) s

/-- Hold a feature, after an overflow has made room (R65). -/
def holdFeature (c : Ctx) (tag : Tag) (h : HeldFeature) (s : State) : State :=
  arm c (.release tag) h.releasePos
    (modifyEntry tag (fun e => { e with held := e.held ++ [h] }) (overflowHold c tag s))

/-- Whether a feature lies in the edge zone when it arrives (R62). -/
def arrivesAtEdge (b : Bank) (e : Entry) (lane : Lane) (pos : Position) : Bool :=
  lane = e.first || lane = e.last || before pos (e.leading + bu b.edgeZone)

/-- A FEATURE attributed to an entry, at its feature position (R60 to R65). -/
def classifyFeature (c : Ctx) (tag : Tag) (lane : Lane) (kind : BitVec 5) (along across : Word) (pos : Position)
    (s : State) : State :=
  withEntry tag (fun e s =>
    let b := s.tables.bank e.bank
    let band := sizeBand b.bandLimits (featureSize along across)
    if arrivesAtEdge b e lane pos then tallyFeature c tag kind band along across .edge s
    else if b.edgeZone = 0 then tallyFeature c tag kind band along across .core s
    else holdFeature c tag ⟨kind, band, along, across, pos + bu b.edgeZone⟩ s) s

/-- The first held feature with a release position (R66, log 18), and the list without it. -/
def takeHeld (pos : Position) : List HeldFeature → Option (HeldFeature × List HeldFeature)
  | [] => none
  | h :: rest =>
    if h.releasePos = pos then some (h, rest)
    else (takeHeld pos rest).map fun (x, l) => (x, h :: l)

/-- The belt reaches the release position of a held feature of an OPEN entry (R66). -/
def releaseFeature (tag : Tag) (w : Watch) (s : State) : State :=
  withEntry tag (fun e s =>
    match takeHeld w.pos e.held with
    | some (h, rest) =>
      tallyHeld (Ctx.at .classifier w.pos) tag .core h (modifyEntry tag (fun e => { e with held := rest }) s)
    | none => s) s

/-- RELEASE_POSITION (R66). -/
def execReleasePosition (tag : Tag) (s : State) : Host.Outcome State Fault Refusal :=
  .next (takeNamed (.release tag) (releaseFeature tag) s)

/-- The Edge Hold List is emptied at the close, oldest first, as edge (R67). -/
def emptyHold (c : Ctx) (tag : Tag) (s : State) : State :=
  withEntry tag (fun e s =>
    e.held.foldl (fun s h => tallyHeld c tag .edge h (disarmFirst (.release tag) h.releasePos s))
      (modifyEntry tag (fun e => { e with held := [] }) s)) s

end Sys2Proof.Machine
end

