-- ==== Sys2Proof/Machine/Evaluation.lean ====
section
/-! DEFINITION. The Grade Evaluator (chapter 6): the tests of a rule, the start, completion and abandonment of an
evaluation. -/
namespace Sys2Proof.Machine

/-! ### Trying the rules (R94 to R98, Table 6-4) -/

/-- A limit that is absent is not tested (R94). -/
def limitOk (limit : Option Word) (test : Nat → Bool) : Bool :=
  match limit with
  | some w => test w.toNat
  | none => true

/-- The length test (R95). -/
def Rule.lengthOk (r : Rule) (e : Entry) : Bool :=
  limitOk r.minLength fun m => m ≤ (e.length.getD 0).toNat

/-- The lane test: last lane − first lane + 1 (R95). -/
def Rule.lanesOk (r : Rule) (e : Entry) : Bool :=
  limitOk r.minLanes fun m => m + e.first.toNat ≤ e.last.toNat + 1

/-- The moisture test, which fails without a sample (R96). -/
def Rule.moistureOk (r : Rule) (e : Entry) : Bool :=
  limitOk r.moistMax fun m =>
    match e.moisture.maximum with
    | some x => 0 < e.moisture.count && x ≤ m
    | none => false

/-- The wet test (R96). -/
def Rule.wetOk (r : Rule) (e : Entry) : Bool := limitOk r.wetMax fun m => e.moisture.wet ≤ m

/-- The item test (R97). -/
def ClassLimit.ok (l : ClassLimit) (e : Entry) : Bool :=
  let t := e.tally.get l.cls
  limitOk l.countMax (fun m => t.count ≤ m) && limitOk l.sizeMax (fun m => t.largest ≤ m) &&
    limitOk l.areaMax (fun m => t.area ≤ m)

/-- The twelve classes. -/
def allClasses : List (Fin 12) := [0, 1, 2, 3, 4, 5, 6, 7, 8, 9, 10, 11]

/-- The unlisted-class test (R98). -/
def Rule.unlistedOk (r : Rule) (e : Entry) : Bool :=
  match r.policy with
  | .allow => true
  | .refuse => allClasses.all fun k => r.limits.any (fun l => l.cls = k) || (e.tally.get k).count = 0

/-- A rule is satisfied when every test it carries passes (R94). -/
def Rule.satisfied (r : Rule) (e : Entry) : Bool :=
  r.lengthOk e && r.lanesOk e && r.moistureOk e && r.wetOk e && r.limits.all (fun l => l.ok e) && r.unlistedOk e

/-- The eight rule numbers. -/
def allRules : List (Fin 8) := [0, 1, 2, 3, 4, 5, 6, 7]

/-- The number of the first rule in use that the entry satisfies (R94). -/
def Bank.satisfiedRule (b : Bank) (e : Entry) : Option (Fin 8) :=
  allRules.find? fun n => n.val < b.ruleCount.val && (b.rules.get n).satisfied e

/-- The result of an evaluation as a decision source: a rule, or the fallback (R94). -/
def Bank.evaluate (b : Bank) (e : Entry) : DecisionSource :=
  match b.satisfiedRule e with
  | some n => .rule n
  | none => .fallback

/-! ### The evaluation in flight -/

/-- An IDLE evaluator takes the entry at the head of a list that is not empty (R93). -/
def startEvaluation (s : State) : State :=
  match s.evaluator.inFlight, s.evaluator.list with
  | none, tag :: _ =>
    withEntry tag (fun e s =>
      modifyEntry tag (fun e => { e with evalStatus := .inEvaluation })
        (s.setEvaluator { s.evaluator with inFlight := some ⟨tag, e.bank⟩ })) s
  | _, _ => s

/-- EVALUATION_START (R93): the start is part of the event that brings its condition about (log 12). -/
def execEvaluationStart (s : State) : Host.Outcome State Fault Refusal := .next (startEvaluation s)

/-- Set the evaluation status of an entry. -/
def setEvalStatus (st : EvalStatus) (tag : Tag) (s : State) : State :=
  modifyEntry tag (fun e => { e with evalStatus := st }) s

/-- The evaluator is IDLE. -/
def evaluatorIdle (s : State) : State := s.setEvaluator { s.evaluator with inFlight := none }

/-- What a completing evaluation does to its entry: it decides an undecided one (R100), gives a LATE one its would-be
grade (R101), and is discarded otherwise (R102). -/
def applyResult (c : Ctx) (f : InFlight) (s : State) : State :=
  withEntry f.tag (fun e s =>
    let b := s.tables.bank f.bank
    let result := b.evaluate e
    match e.decision with
    | none => setEvalStatus .done f.tag (decideEntry c result f.tag s)
    | some d =>
      if d.source = .late then
        setEvalStatus .done f.tag (modifyEntry f.tag (fun e => { e with wouldBe := some (b.decide result).grade }) s)
      else setEvalStatus .none f.tag s) s

/-- An evaluation completes; the hold ends, the evaluator is IDLE and starts the next (R100 to R103). -/
def completeEvaluation (s : State) : State :=
  match s.evaluator.inFlight with
  | some f =>
    let c := Ctx.now s
    startEvaluation (evaluatorIdle (endHold c f.tag (applyResult c f s)))
  | none => s

/-- EVALUATION_COMPLETION (R100); it completes where it stands in the queue (log 13). -/
def execEvaluationCompletion (s : State) : Host.Outcome State Fault Refusal := .next (completeEvaluation s)

end Sys2Proof.Machine
end

