-- ==== Sys2Proof/Machine/Moisture.lean ====
section
/-! DEFINITION. The Moisture Unit (chapter 5): interpolation, blending and the moisture summary. -/
namespace Sys2Proof.Machine

/-- `a` plus (`b` − `a`) × `num` / `den`, worked exactly and rounded down toward the lower number (R81, R82). -/
def interpolate (a b num den : Nat) : Nat :=
  ((a : Int) + ((b : Int) - (a : Int)) * (num : Int) / (den : Int)).toNat

/-- Knot Ki. -/
def Bank.knot (b : Bank) (i : Nat) : Nat := (elem b.knots i 0).toNat

/-- The knot value of a curve, lane and knot (5.1, Table 12-5). -/
def Bank.knotValue (b : Bank) (curve : Fin 3) (lane : Lane) (i : Nat) : Nat :=
  (elem (b.curves.get curve) (lane.toNat * 8 + i) 0).toNat

/-- The knot interval a reading lies in: the last of K0 to K6 that is not above it (R81). -/
def Bank.knotIndex (b : Bank) (r : Nat) : Nat :=
  ((List.range 7).filter fun i => b.knot i ≤ r).getLastD 0

/-- The corrected value of a curve for a raw reading on a lane (R81). -/
def Bank.curveValue (b : Bank) (curve : Fin 3) (lane : Lane) (r : Nat) : Nat :=
  if r ≤ b.knot 0 then b.knotValue curve lane 0
  else if b.knot 7 ≤ r then b.knotValue curve lane 7
  else
    let i := b.knotIndex r
    interpolate (b.knotValue curve lane i) (b.knotValue curve lane (i + 1)) (r - b.knot i) (b.knot (i + 1) - b.knot i)

/-- The corrected value of a sample, by the rows of Table 5-3 from the top (R82). -/
def Bank.corrected (b : Bank) (lane : Lane) (r t : Nat) : Nat :=
  let v := fun c => b.curveValue c lane r
  let t1 := (b.thresholds.get 0).toNat
  let t2 := (b.thresholds.get 1).toNat
  let t3 := (b.thresholds.get 2).toNat
  let t4 := (b.thresholds.get 3).toNat
  if t ≤ t1 then v 0
  else if t < t2 then interpolate (v 0) (v 1) (t - t1) (t2 - t1)
  else if t ≤ t3 then v 1
  else if t < t4 then interpolate (v 1) (v 2) (t - t3) (t4 - t3)
  else v 2

/-- A corrected value summarised (R83). -/
def MoistureSummary.add (m : MoistureSummary) (wetLimit v : Nat) : MoistureSummary where
  count := satInc 65535 m.count
  sum := if m.count < 65535 then m.sum + v else m.sum
  maximum := some (match m.maximum with | none => v | some x => max x v)
  wet := if wetLimit < v then satInc 65535 m.wet else m.wet

/-- The mean of a summary, absent while nothing has been summarised (R84). -/
def MoistureSummary.mean (m : MoistureSummary) : Option Nat :=
  if m.count = 0 then none else some (m.sum / m.count)

/-- A MOIST attributed to an entry: corrected and summarised from the bound bank (R79, R80). -/
def summariseSample (tag : Tag) (lane : Lane) (raw temperature : Word) (s : State) : State :=
  withEntry tag (fun e s =>
    let b := s.tables.bank e.bank
    let v := b.corrected lane raw.toNat temperature.toNat
    modifyEntry tag (fun e => { e with moisture := e.moisture.add b.wetLimit.toNat v }) s) s

end Sys2Proof.Machine
end

