-- ==== Sys2Proof/Machine/Tracking.lean ====
section
/-! DEFINITION. The Sheet Tracker (chapter 3): opening, attribution, closing, decision points, retirement, the Blind Span,
flush, and the end of DRAINING. -/
namespace Sys2Proof.Machine

/-- Group S distances of the tracker, as belt. -/
def maxSheet (s : State) : Position := bu s.settings.maxSheetLength
def divertDist (s : State) : Position := bu s.settings.divertDistance

/-! ### Close handling (R42) -/

/-- Step 1 of the close handling: trailing edge, never before the leading edge; CLOSED. An entry marked suspect here is
decided in step 4, once its hold list is empty (log 27). -/
def Entry.closedAt (e : Entry) (trailing : Position) : Entry :=
  if before trailing e.leading then
    { e with trailing := some e.leading, state := .closed, flags := { e.flags with suspect := true } }
  else { e with trailing := some trailing, state := .closed }

/-- Step 6 of the close handling: the entry is listed, and an IDLE evaluator takes the head (R42, R93). -/
def listEntry (tag : Tag) (s : State) : State :=
  startEvaluation (setEvalStatus .listed tag
    (s.setEvaluator { s.evaluator with list := s.evaluator.list ++ [tag] }))

/-- Steps 4 to 6 of the close handling. -/
def settleClosed (c : Ctx) (tag : Tag) (s : State) : State :=
  withEntry tag (fun e s =>
    if e.flags.suspect then decideEntry c .suspect tag s
    else if e.decision.isSome then s
    else listEntry tag s) s

/-- The close handling of an entry (R42), at whose end its hold may end (R49). -/
def closeEntry (c : Ctx) (tag : Tag) (trailing : Position) (s : State) : State :=
  withEntry tag (fun e s =>
    let s := modifyEntry tag (fun e => e.closedAt trailing) s
    let s := arm c (.retirement tag) ((e.closedAt trailing).trailing.getD e.leading + bu s.settings.retireDistance)
      (disarm (.overlength tag) s)
    endHold c tag (settleClosed c tag (emptyHold c tag s))) s

/-- Mark suspect and close several entries in queue order at one trailing edge (R36, R44). -/
def forceCloseAll (c : Ctx) (own : EntryFlags → EntryFlags) (tags : List Tag) (trailing : Position) (s : State) : State :=
  tags.foldl (fun s tag => closeEntry c tag trailing (markSuspect c own tag s)) s

/-! ### The Blind Span (R51 to R54) -/

/-- A blind open (R51). -/
def blindOpen (c : Ctx) (leading : Position) (s : State) : State :=
  match s.tracker.blind with
  | none =>
    let s := s.setTracker { s.tracker with blind := some ⟨leading, none, 1, leading, .unsealed⟩ }
    intervalCreated c leading (raise c .blind (arm c .forcedSeal (leading + maxSheet s) s))
  | some b =>
    let s := s.setTracker { s.tracker with
      blind := some { b with outstanding := satInc 255 b.outstanding, latest := leading, sealState := .unsealed } }
    let s := arm c .forcedSeal (leading + maxSheet s) (disarm .forcedSeal s)
    if b.sealState = .sealed then intervalUnsealed (raise c .blind (disarm .clearing s)) else s

/-- The span becomes SEALED with the given end and count: the clearing position is armed and the Route Scheduler is told
(R52, R53, R140). -/
def sealSpan (c : Ctx) (b : BlindSpan) (stop : Position) (s : State) : State :=
  let s := s.setTracker { s.tracker with
    blind := some { b with stop := some stop, outstanding := 0, sealState := .sealed } }
  intervalSealed c stop (arm c .clearing (stop + divertDist s) (disarm .forcedSeal s))

/-- A blind close (R52). -/
def blindClose (c : Ctx) (b : BlindSpan) (trailing : Position) (s : State) : State :=
  let stop := match b.stop with | none => trailing | some e => later e trailing
  if b.outstanding ≤ 1 then sealSpan c b stop s
  else s.setTracker { s.tracker with blind := some { b with outstanding := b.outstanding - 1, stop := some stop } }

/-- Whether blind sheets are outstanding (R39, R41). -/
def blindOutstanding (s : State) : Bool :=
  match s.tracker.blind with
  | some b => 0 < b.outstanding
  | none => false

/-- The belt reaches the forced-seal position (R53). -/
def forcedSeal (w : Watch) (s : State) : State :=
  match s.tracker.blind with
  | some b =>
    if b.sealState = .unsealed then
      sealSpan (Ctx.at .tracker w.pos) b (match b.stop with | none => w.pos | some e => later e w.pos) s
    else s
  | none => s

/-- FORCED_SEAL (R53). -/
def execForcedSeal (s : State) : Host.Outcome State Fault Refusal := .next (takeNamed .forcedSeal forcedSeal s)

/-! ### The end of DRAINING (R54, R168) -/

/-- The mode becomes STANDBY, where the silence position is not watched (R16, log 24). -/
def enterStandby (s : State) : State := disarm .silence (setMode .standby s)

/-- The drain-end notice, given in DRAINING with the queue empty and no Blind Span (R54, R168). -/
def drainEnd (c : Ctx) (s : State) : State :=
  if s.agent.mode = .draining && s.tracker.sheets.isEmpty && s.tracker.blind.isNone then
    raise c .drained (enterStandby s)
  else s

/-- The notice that a retirement or a clearing gives, where it is taken within that event (log 28). -/
def giveNotice (notice : Bool) (c : Ctx) (s : State) : State := if notice then drainEnd c s else s

/-- A position taken by a command of its own: whether a notice it gives is taken within it is a free value (R170, log
28). -/
def withNotice (act : Bool → Watch → State → State) (w : Watch) (s : State) : State :=
  act (Config.freeNotice s.draws) w (draw s)

/-- DRAIN_END_NOTICE (R168): a notice taken after the retirement or clearing that gives it, in DRAINING still (R170,
log 28). -/
def execDrainEndNotice (s : State) : Host.Outcome State Fault Refusal := .next (drainEnd (Ctx.now s) s)

/-- The belt reaches the clearing position of a SEALED span (R54). -/
def clearSpan (notice : Bool) (w : Watch) (s : State) : State :=
  match s.tracker.blind with
  | some b =>
    if b.sealState = .sealed then
      giveNotice notice (Ctx.at .tracker w.pos) (intervalEnds (s.setTracker { s.tracker with blind := none }))
    else s
  | none => s

/-- CLEARING (R54, R170). -/
def execClearing (s : State) : Host.Outcome State Fault Refusal :=
  .next (takeNamed .clearing (withNotice clearSpan) s)

/-! ### Opening (R34 to R38) -/

/-- The first tag from `t` upward, wrapping, that is not in use; a free one is found within 24 values (R34). -/
def freeTag : Nat → List Tag → Tag → Tag
  | 0, _, t => t
  | n + 1, used, t => if t ∈ used then freeTag n used (t + 1) else t

/-- A new entry (R35). -/
def newEntry (t : TableStore) (tag : Tag) (leading : Position) (first last : Lane) : Entry where
  tag := tag
  state := .opened
  leading := leading
  trailing := none
  first := first
  last := last
  bank := t.active
  generation := t.generation
  decision := none
  wouldBe := none
  evalStatus := .none
  route := .pending
  window := none
  flags := {}
  held := []
  tally := Vector.replicate 12 ⟨0, 0, 0⟩
  total := 0
  moisture := ⟨0, 0, none, 0⟩
  holding := true

/-- Conflict handling: OPEN entries that share a lane are force-closed, and SPAN_CONFLICT is raised once (R36). -/
def spanConflict (c : Ctx) (leading : Position) (first last : Lane) (s : State) : State :=
  match tagsWhere (fun e => e.isOpen && e.sharesLane first last) s with
  | [] => s
  | tags => raise c .spanConflict (forceCloseAll c (fun f => { f with spanConflict := true }) tags leading s)

/-- A new entry is opened: a pending commit first, then the entry, its hold and its two positions (R34, R35, R37, R113). -/
def openEntry (c : Ctx) (leading : Position) (first last : Lane) (s : State) : State :=
  let s := commitIfPending c s
  let tag := freeTag Config.sheetQueueMax (s.tracker.sheets.map (·.tag)) s.tracker.tagCounter
  let e := newEntry s.tables tag leading first last
  let s := s.setTracker { s.tracker with sheets := s.tracker.sheets ++ [e], tagCounter := tag + 1 }
  let s := s.setTables (s.tables.setHolders e.bank (s.tables.holders e.bank + 1))
  arm c (.decision tag) (leading + bu s.settings.decisionDistance) (arm c (.overlength tag) (leading + maxSheet s) s)

/-- An OPEN taken with its stamp (R36 to R38). -/
def takeOpen (first last : Lane) (offset : Byte) (stamp : Position) (s : State) : State :=
  let c := Ctx.now s
  let leading := placed s stamp offset
  let s := spanConflict c leading first last s
  if s.agent.mode = .streaming && s.tracker.sheets.length < Config.sheetQueueMax then openEntry c leading first last s
  else blindOpen c leading s

/-! ### Attribution (R39) -/

/-- The OPEN entry whose span contains a lane (R39). -/
def attributedTo (lane : Lane) (s : State) : Option Entry :=
  s.tracker.sheets.find? fun e => e.isOpen && e.covers lane

/-- A record that matches no entry: silent while blind sheets are outstanding, otherwise ORPHAN (R39, R41). -/
def unattributed (s : State) : State :=
  if blindOutstanding s then s else raise (Ctx.now s) .orphan s

/-- A FEATURE taken with its stamp (R39). -/
def takeFeature (lane : Lane) (kind : BitVec 5) (along across : Word) (offset : Byte) (stamp : Position) (s : State) :
    State :=
  match attributedTo lane s with
  | some e => classifyFeature (Ctx.now s) e.tag lane kind along across (placed s stamp offset) s
  | none => unattributed s

/-- A MOIST taken (R39, R80); its sample carries no offset. -/
def takeMoist (lane : Lane) (raw temperature : Word) (s : State) : State :=
  match attributedTo lane s with
  | some e => summariseSample e.tag lane raw temperature s
  | none => unattributed s

/-! ### CLOSE (R40, R41) -/

/-- A CLOSE taken with its stamp (R40, R41). -/
def takeClose (first last : Lane) (offset : Byte) (stamp : Position) (s : State) : State :=
  let c := Ctx.now s
  let trailing := placed s stamp offset
  match s.tracker.sheets.find? (fun e => e.isOpen && e.first = first) with
  | some e =>
    closeEntry c e.tag trailing (if e.last = last then s else markSuspect c id e.tag s)
  | none =>
    match s.tracker.blind with
    | some b => if 0 < b.outstanding then blindClose c b trailing s else raise c .orphan s
    | none => raise c .orphan s

/-- The silence notice: every OPEN entry is force-closed at the silence position − Scan Lag (R44). -/
def silenceNotice (c : Ctx) (pos : Position) (s : State) : State :=
  forceCloseAll c (fun f => { f with silent := true }) (tagsWhere Entry.isOpen s) (pos - bu s.settings.scanLag) s

/-! ### Overlength and decision point -/

/-- The belt reaches the overlength position of an OPEN entry (R43). -/
def overlengthReached (tag : Tag) (w : Watch) (s : State) : State :=
  let c := Ctx.at .tracker w.pos
  withEntry tag (fun e s =>
    if e.isOpen then
      closeEntry c tag (e.leading + maxSheet s)
        (raise c .overlength (markSuspect c (fun f => { f with overlength := true }) tag s))
    else s) s

/-- OVERLENGTH (R43). -/
def execOverlength (tag : Tag) (s : State) : Host.Outcome State Fault Refusal :=
  .next (takeNamed (.overlength tag) (overlengthReached tag) s)

/-- The belt reaches the decision point of an entry (R46). -/
def decisionReached (tag : Tag) (w : Watch) (s : State) : State :=
  let c := Ctx.at .tracker w.pos
  withEntry tag (fun e s =>
    if e.decision.isNone then raise c .late (endHold c tag (decideEntry c .late tag s)) else s) s

/-- DECISION_POINT (R46). -/
def execDecisionPoint (tag : Tag) (s : State) : Host.Outcome State Fault Refusal :=
  .next (takeNamed (.decision tag) (decisionReached tag) s)

/-! ### Retirement (R50) -/

/-- The REPORT of an entry (R76, R142, R143, Table 8-2). -/
def Entry.report (e : Entry) (d : Decision) : Report where
  tag := e.tag
  grade := d.grade
  gate := d.gate
  generation := e.generation
  leading := e.leading
  length := e.length.getD 0
  first := e.first
  last := e.last
  flags := e.flags
  wouldBe := e.wouldBe
  samples := e.moisture.count
  mean := e.moisture.mean
  maximum := e.moisture.maximum
  wet := e.moisture.wet
  items := (allClasses.map fun k => ⟨k, e.tally.get k⟩).filter fun i => i.tally.count ≠ 0

/-- Count the final grade of a retiring sheet, wrapping (R180). -/
def countGrade (g : Fin 16) (s : State) : State :=
  s.setAttention { s.attention with grades := s.attention.grades.set g.val (s.attention.grades.get g + 1) }

/-- The REPORT and the grade count of a retiring entry, from its decision (R50, log 23). -/
def reportAndCount (e : Entry) (s : State) : State :=
  match e.decision with
  | some d => countGrade d.grade (if s.settings.reportEnable then offer (.report (e.report d)) s else s)
  | none => s

/-- Remove an entry, its tag on the Grading List and its positions (R50, R92). -/
def removeEntry (tag : Tag) (s : State) : State :=
  disarmTag tag (unlist tag
    (s.setTracker { s.tracker with sheets := s.tracker.sheets.filter fun e => e.tag ≠ tag }))

/-- An evaluation in flight of a retired entry is abandoned, and the next starts (R105). -/
def abandonEvaluation (tag : Tag) (s : State) : State :=
  match s.evaluator.inFlight with
  | some f => if f.tag = tag then startEvaluation (evaluatorIdle s) else s
  | none => s

/-- An entry is retired (R50, R105, R141, R155). -/
def retireEntry (notice : Bool) (c : Ctx) (e : Entry) (s : State) : State :=
  let s := removeEntry e.tag (reportAndCount e s)
  let s := markerRetired e.tag (routeRetired c e s)
  let s := if e.holding then releaseHold c e.bank s else s
  giveNotice notice c (commitIfQueueEmpty c (abandonEvaluation e.tag s))

/-- The belt reaches the retirement position of a CLOSED entry (R50). -/
def retirementReached (tag : Tag) (notice : Bool) (w : Watch) (s : State) : State :=
  withEntry tag (fun e s => if e.isOpen then s else retireEntry notice (Ctx.at .tracker w.pos) e s) s

/-- RETIREMENT (R50, R170). -/
def execRetirement (tag : Tag) (s : State) : Host.Outcome State Fault Refusal :=
  .next (takeNamed (.retirement tag) (withNotice (retirementReached tag)) s)

/-! ### Flush (R55) -/

/-- A flush: every block drops what it holds for the tracked sheets, in the order of R169. The tag counter is kept and no
position stays watched. -/
def flush (c : Ctx) (s : State) : State :=
  let s := s.setTracker { s.tracker with sheets := [], blind := none }
  let s := flushTables c (s.setEvaluator ⟨[], none⟩)
  (endStamp (flushRoute s)).setWatches []

end Sys2Proof.Machine
end

