-- ==== Sys2Proof/Machine/ScanIntake.lean ====
section
/-! DEFINITION. The Scan Port (chapter 1): rejection, the deck filter, the field check, stamping, handling by mode, frame
numbering and the silence watch. -/
namespace Sys2Proof.Machine

/-- The framing is HUNTING once a record has been taken (R1). -/
def endFraming (s : State) : State := s.setScan { s.scan with framing := .hunting }

/-- A record is rejected (R6). -/
def rejectRecord (s : State) : State :=
  raise (Ctx.now s) .scanFault (s.setScan { s.scan with rejected := satInc 65535 s.scan.rejected })

/-- A record that has lost its end is taken and judged as failing its check (R1), or discarded in LOADING (R9). -/
def loseEnd (s : State) : State :=
  let s := endFraming s
  if s.agent.mode = .loading then s else rejectRecord s

/-- A start mark arrives: in RECEIVING the bytes held form a record that has lost its end (R1, log 4). -/
def startMark (s : State) : State :=
  match s.scan.framing with
  | .hunting => s
  | .receiving _ => loseEnd s

/-- Arm the silence watch at a stamp (R15). -/
def armSilence (s : State) : State :=
  let stamp := s.position.belt
  let s := s.setScan { s.scan with lastStamp := stamp, silence := .armed }
  arm (Ctx.now s) .silence (stamp + bu s.settings.silenceDistance) (disarm .silence s)

/-- A traffic record that has passed the integrity check, from its start mark on (R1, log 3): discarded in LOADING (R9),
ignored for the other deck (R5), rejected by the field check (R7), discarded in STANDBY (R10), and otherwise stamped and
handed on with its stamp (R8, R11, R15). -/
def takeTraffic (deck : BitVec 1) (fieldOk : Bool) (act : Position → State → State) (s : State) : State :=
  let s := startMark s
  match s.agent.mode with
  | .loading => s
  | .standby => if deck ≠ s.scan.deckValue then s else if fieldOk then s else rejectRecord s
  | .streaming | .draining =>
    if deck ≠ s.scan.deckValue then s
    else if fieldOk then act s.position.belt (armSilence s)
    else rejectRecord s

/-- A lane within the lane limit, Lane Count − 1 (R7). -/
def laneOk (s : State) (lane : Lane) : Bool := lane.toNat < s.settings.laneCount.toNat

/-- The field check of an OPEN or a CLOSE (Table 1-9). -/
def spanOk (s : State) (first last : Lane) : Bool := laneOk s first && laneOk s last && first ≤ last

/-- The field check of a FEATURE (Table 1-9). -/
def featureOk (s : State) (lane : Lane) (along across : Word) : Bool :=
  laneOk s lane && 1 ≤ along.toNat && along.toNat ≤ 4095 && 1 ≤ across.toNat && across.toNat ≤ 4095

/-- The field check of a MOIST (Table 1-9). -/
def moistOk (s : State) (lane : Lane) (temperature : Word) : Bool := laneOk s lane && temperature.toNat ≤ 500

/-- Frame numbering (R13, R14). -/
def numberFrame (number : Word) (s : State) : State :=
  let c := Ctx.now s
  let s := match s.scan.expected with
    | none => s
    | some n => if n = number then s else frameGapNotice c (raise c .frameGap s)
  s.setScan { s.scan with expected := some (number + 1) }

/-- A FRAME record (R13, R14). -/
def frameRecordTaken (deck : BitVec 1) (number : Word) (s : State) : State :=
  takeTraffic deck true (fun _ => numberFrame number) s

/-- An OPEN record (R37). -/
def openRecordTaken (deck : BitVec 1) (first last : Lane) (offset : Byte) (s : State) : State :=
  takeTraffic deck (spanOk s first last) (takeOpen first last offset) s

/-- A FEATURE record (R39). -/
def featureRecordTaken (deck : BitVec 1) (lane : Lane) (kind : BitVec 5) (along across : Word) (offset : Byte)
    (s : State) : State :=
  takeTraffic deck (featureOk s lane along across) (takeFeature lane kind along across offset) s

/-- A MOIST record (R80). -/
def moistRecordTaken (deck : BitVec 1) (lane : Lane) (raw temperature : Word) (s : State) : State :=
  takeTraffic deck (moistOk s lane temperature) (fun _ => takeMoist lane raw temperature) s

/-- A CLOSE record (R40). -/
def closeRecordTaken (deck : BitVec 1) (first last : Lane) (offset : Byte) (s : State) : State :=
  takeTraffic deck (spanOk s first last) (takeClose first last offset) s

/-- FRAME (R14). -/
def execFrame (deck : BitVec 1) (number : Word) (s : State) : Host.Outcome State Fault Refusal :=
  .next (frameRecordTaken deck number s)

/-- OPEN (R37). -/
def execOpen (deck : BitVec 1) (first last : Lane) (offset : Byte) (s : State) : Host.Outcome State Fault Refusal :=
  .next (openRecordTaken deck first last offset s)

/-- FEATURE (R39). -/
def execFeature (deck : BitVec 1) (lane : Lane) (kind : BitVec 5) (along across : Word) (offset : Byte) (s : State) :
    Host.Outcome State Fault Refusal :=
  .next (featureRecordTaken deck lane kind along across offset s)

/-- MOIST (R80). -/
def execMoist (deck : BitVec 1) (lane : Lane) (raw temperature : Word) (s : State) :
    Host.Outcome State Fault Refusal :=
  .next (moistRecordTaken deck lane raw temperature s)

/-- CLOSE (R40). -/
def execClose (deck : BitVec 1) (first last : Lane) (offset : Byte) (s : State) : Host.Outcome State Fault Refusal :=
  .next (closeRecordTaken deck first last offset s)

/-- The belt reaches the silence position while the watch is ARMED in STREAMING or DRAINING (R16). -/
def silenceReached (w : Watch) (s : State) : State :=
  if s.scan.silence = .armed && (s.agent.mode = .streaming || s.agent.mode = .draining) then
    let c := Ctx.at .scanPort w.pos
    silenceNotice c w.pos (raise c .scanSilent (s.setScan { s.scan with silence := .fired }))
  else s

/-- SILENCE_POSITION (R16). -/
def execSilencePosition (s : State) : Host.Outcome State Fault Refusal :=
  .next (takeNamed .silence silenceReached s)

end Sys2Proof.Machine
end

