-- ==== Sys2Proof/Machine/BeltPosition.lean ====
section
/-! DEFINITION. The Position Unit (chapter 2): pulses, reverse debt, the conditioner, and the taking of the positions one
belt advance has reached. -/
namespace Sys2Proof.Machine

/-! ### The positions of one advance (R26 to R28) -/

/-- The belt advances by a number of units; every watched position it reaches is due (R24, R26). -/
def advanceBelt (n : Nat) (s : State) : State :=
  let belt := s.position.belt + BitVec.ofNat 32 n
  (s.setPosition { s.position with belt := belt }).setWatches
    (s.watches.map fun w => { w with due := w.due || reached belt w.pos })

/-- What a watcher does when it takes a position (Table 2-2); a drain-end notice is taken with it (log 28). -/
def actOn (w : Watch) (s : State) : State :=
  match w.kind with
  | .silence => silenceReached w s
  | .overlength tag => overlengthReached tag w s
  | .decision tag => decisionReached tag w s
  | .retirement tag => retirementReached tag true w s
  | .forcedSeal => forcedSeal w s
  | .clearing => clearSpan true w s
  | .release tag => releaseFeature tag w s
  | .fire tag => firePoint tag w s
  | .stale tag => staleExpiry tag w s
  | .windowOpening tag => windowOpening tag w s
  | .windowClosing tag => windowClosing tag w s
  | .intervalOpening => intervalOpening w s
  | .intervalClosing => intervalClosing w s
  | .stampStart tag => stampStart tag w s
  | .dotEnd => dotEnd w s
  | .row => nextRow w s

/-- The five watchers. -/
def allWatchers : List Watcher := [.scanPort, .tracker, .classifier, .scheduler, .marker]

/-- The watchers that still have a position of the last advance to take. -/
def dueWatchers (s : State) : List Watcher := allWatchers.filter fun w => (nextDue s w).isSome

/-- One watcher takes its next position. -/
def takeNext (w : Watcher) (s : State) : State :=
  match nextDue s w with
  | some x => actOn x (dropWatch x s)
  | none => s

/-- One more position is taken, if any is due. Which of several watchers takes one is a free value (R27, log 7). -/
def takeAny (s : State) : Option State :=
  match dueWatchers s with
  | [] => none
  | [w] => some (takeNext w s)
  | w :: rest => some (takeNext ((w :: rest).getD (Config.freeWatcher s.draws % (rest.length + 1)) w) (draw s))

/-- Take positions until none is due, at most `fuel` of them. -/
def settleFuel : Nat → State → State
  | 0, s => s
  | n + 1, s =>
    match takeAny s with
    | none => s
    | some t => settleFuel n t

/-- Every watcher takes the positions of the last advance that it has not taken (R27, R28). Each position arms at most a
bounded chain of others, so sixteen for each watched position are more than enough. -/
def settle (s : State) : State := settleFuel (16 * (s.watches.length + 1)) s

/-! ### Pulses (R19 to R23) -/

/-- How a pulse leaves ENC_A and ENC_DIR: a rising edge, with the direction sampled (R19). -/
def pulseLevels (reverse : Bool) (s : State) : State := s.setPins { s.pins with encA := true, encDir := reverse }

/-- A belt advance: the positions of the advance before it are taken first; with `whole`, those it reaches are taken
within the same step, otherwise by commands of their own (R27, log 5, log 6). -/
def beltAdvance (whole : Bool) (n : Nat) (s : State) : State :=
  let s := advanceBelt n (settle s)
  if whole then settle s else s

/-- A counted forward pulse at the conditioner (R22, R23). -/
def countPulse (whole : Bool) (s : State) : State :=
  match s.settings.pulseMode with
  | .divide =>
    if s.settings.pulseRatio.toNat ≤ s.position.residue + 1 then
      beltAdvance whole 1 (s.setPosition { s.position with residue := 0 })
    else s.setPosition { s.position with residue := s.position.residue + 1 }
  | .multiply => beltAdvance whole s.settings.pulseRatio.toNat s

/-- A forward pulse (R19, R20). -/
def forwardPulse (whole : Bool) (s : State) : State :=
  let s := pulseLevels false s
  if s.agent.mode = .loading then s
  else if 0 < s.position.debt then s.setPosition { s.position with debt := s.position.debt - 1 }
  else countPulse whole s

/-- FORWARD_PULSE (R20). -/
def execForwardPulse (whole : Bool) (s : State) : Host.Outcome State Fault Refusal := .next (forwardPulse whole s)

/-- A reversal (R21). -/
def reversal (s : State) : State :=
  let c := Ctx.now s
  reversalNotice c (raise c .beltReversed (s.setPosition { s.position with debt := 0 }))

/-- A reverse pulse (R19 to R21). -/
def reversePulse (s : State) : State :=
  let s := pulseLevels true s
  if s.agent.mode = .loading then s
  else if s.position.debt < s.settings.reverseLimit.toNat then
    s.setPosition { s.position with debt := s.position.debt + 1 }
  else reversal s

/-- REVERSE_PULSE (R20). -/
def execReversePulse (s : State) : Host.Outcome State Fault Refusal := .next (reversePulse s)

end Sys2Proof.Machine
end

