-- ==== Sys2Proof/Machine/StartUp.lean ====
section
/-! DEFINITION. Resets, LOADING and the start-up record (chapter 11). -/
namespace Sys2Proof.Machine

/-- What every warm reset leaves, with the start-up record of its cause (Table 11-4; R2, R18, R32, R58, R111, R124, R129,
R146, R156, R174, R185). Settings, grade counters, rejected-record counter, bank contents and the deck and Option Block
values stand until LOADING ends. -/
def warmReset (startup : StartRecord) (s : State) : State :=
  { s with
    scan := ⟨.hunting, s.scan.deckValue, none, 0, .fired, s.scan.rejected⟩
    position := ⟨0, 0, 0⟩
    watches := []
    tracker := ⟨[], 0, none⟩
    evaluator := ⟨[], none⟩
    tables := s.tables.warmReset s.draws
    interval := ⟨.ended, 0, none⟩
    link := ⟨[], none⟩
    marker := none
    agent := { s.agent with mode := .loading, lineTest := none, copyReply := none }
    attention := ⟨0, s.attention.grades, startup⟩
    draws := if s.tables.copyInFlight then s.draws + 1 else s.draws }

/-- Number of sheet entries lost at a reset (R58, R184). -/
def entriesLost (s : State) : Nat := s.tracker.sheets.length

/-- The supply enters its operating range (R181): State.reset, with the input levels and the Option Block of the part. -/
def powerOn (s : State) : State :=
  { State.reset with pins := s.pins, optionBlock := s.optionBlock, draws := s.draws, pending := s.pending }

/-- POWER_ON (R181). -/
def execPowerOn (s : State) : Host.Outcome State Fault Refusal := .next (powerOn s)

/-- RESET_N held low for the minimum pulse, up to its return high (R181, log 20). In a power-on LOADING the start-up
record keeps the cause POWER (R182). -/
def pinReset (s : State) : State :=
  if s.agent.mode = .loading && s.attention.startup.cause = .power then warmReset s.attention.startup s
  else warmReset ⟨.pin, none, some s.agent.mode, some (entriesLost s), false⟩ s

/-- PIN_RESET (R181). -/
def execPinReset (s : State) : Host.Outcome State Fault Refusal := .next (pinReset s)

/-- The Option Block fails: its check does not agree, or its station item holds 63 (R183 step 1). -/
def optionFails (o : OptionBlock) : Bool := !o.checkAgrees || o.station = 63

/-- Its preset is unfit: knots that do not rise strictly, or a knot value above 999 (R88). -/
def presetUnfit (o : OptionBlock) : Bool :=
  !risesStrictly (o.knots.toList.map (·.toNat)) ||
    o.curves.toList.any fun c => c.toList.any fun v => 999 < v.toNat

/-- The Option Block or its preset is faulted (R183 step 2). -/
def optionFaulted (o : OptionBlock) : Bool := optionFails o || presetUnfit o

/-- The station, responder and protect settings taken from it (R183 step 3). -/
def takeOptions (o : OptionBlock) (a : Agent) : Agent :=
  if optionFails o then { a with station := 0, groupResponder := false, protect := false }
  else { a with station := o.station, groupResponder := o.groupResponder, protect := o.protect }

/-- The moisture section of a bank at a power-on LOADING (R87, R88). -/
def Bank.withPreset (b : Bank) (o : OptionBlock) : Bank :=
  { b with
    knots := if optionFaulted o then defaultKnots else o.knots
    curves := if optionFaulted o then defaultCurves else o.curves
    thresholds := Vector.replicate 4 0
    wetLimit := 999 }

/-- The moisture preset is written into both banks at a power-on LOADING only (R87, R183 step 4). -/
def applyPreset (o : OptionBlock) (cause : Cause) (t : TableStore) : TableStore :=
  match cause with
  | .power => { t with bank0 := t.bank0.withPreset o, bank1 := t.bank1.withPreset o }
  | .pin | .command => t

/-- Steps 1 to 6 of R183: the Option Block judged, its settings taken, the preset applied, the deck value sampled, and
STANDBY. -/
def takeOptionBlock (o : OptionBlock) (levels : Pins) (s : State) : State :=
  let s := if optionFaulted o then setFlag .optionFault s else s
  { s with
    pins := levels
    optionBlock := o
    attention := { s.attention with startup := { s.attention.startup with optionFaulted := optionFaulted o } }
    agent := { takeOptions o s.agent with mode := .standby }
    tables := applyPreset o s.attention.startup.cause s.tables
    scan := { s.scan with deckValue := if levels.deck then 1 else 0 } }

/-- The START record, and the ALERT record held back by R178 (R183 step 7, R184). -/
def announce (alertHeld : Bool) (s : State) : State :=
  let t := offer (.start s.attention.startup) s
  if alertHeld then offer (.alert .optionFault s.position.belt) t else t

/-- LOADING ends with the completion of the Option Block read (R183). `reprogrammed` gives the contents when they have
been programmed anew; `levels` are the input levels sampled. -/
def endLoading (reprogrammed : Option OptionBlock) (levels : Pins) (s : State) : State :=
  if s.agent.mode = .loading then
    let o := reprogrammed.getD s.optionBlock
    announce (optionFaulted o && !flagSet s .optionFault && maskSet s .optionFault) (takeOptionBlock o levels s)
  else s

/-- LOADING_END (R183); the read completes where the command stands in the queue (log 13). -/
def execLoadingEnd (reprogrammed : Option OptionBlock) (levels : Pins) (s : State) :
    Host.Outcome State Fault Refusal :=
  .next (endLoading reprogrammed levels s)

end Sys2Proof.Machine
end

