-- ==== Sys2Proof/Machine/Management.lean ====
section
/-! DEFINITION. The Management Agent (chapter 10): the taking of a request, each request kind, and the records the Scan
Stream line delivers. -/
namespace Sys2Proof.Machine

/-- Status and value list of a REPLY (R158). -/
structure Answer where
  status : Status
  values : List Word
  deriving DecidableEq, Repr

/-- A refusal without values. -/
def Answer.refuse (st : Status) : Answer := ⟨st, []⟩

/-- A refusal that carries one number (R189). -/
def Answer.at (st : Status) (n : Nat) : Answer := ⟨st, [val n]⟩

/-- DONE with an empty value list. -/
def Answer.done : Answer := ⟨.done, []⟩

/-- A request is taken when it names the part's station or the group address (R157). -/
def requestTaken (h : ReqHeader) (s : State) : Bool :=
  h.dest = s.agent.station || h.dest = Config.groupAddress

/-- A taken request is answered, at the group address only by a group responder (R157). -/
def requestAnswered (h : ReqHeader) (s : State) : Bool :=
  h.dest = s.agent.station || s.agent.groupResponder

/-- Offer the REPLY of a request (R158). -/
def sendReply (h : ReqHeader) (a : Answer) (s : State) : State :=
  offer (.reply h.number s.agent.station a.status a.values) s

/-- A REQUEST record that has passed the integrity check, from its start mark on (R1, log 3): discarded in LOADING (R9),
ignored when not addressed to the part, otherwise acted on whole and then answered (R157, R158). `act` gives no answer when none is sent at the taking. -/
def takeRequest (h : ReqHeader) (act : State → State × Option Answer) (s : State) : State :=
  let s := startMark s
  if s.agent.mode = .loading then s
  else if requestTaken h s then
    let r := act s
    match r.2 with
    | some a => if requestAnswered h s then sendReply h a r.1 else r.1
    | none => r.1
  else s

/-! ### Read (R160, R161) -/

/-- An index and a count within the rules of R160. -/
def boundsOk (s : State) (o : Object) (index count : Nat) : Bool :=
  1 ≤ count && index + count ≤ o.elements s && valuesOf o.size count index ≤ Config.valuesMax

/-- The values of an element of an object; `b` is the bank a table object is read from. -/
def Object.read (s : State) (b : Bank) (i : Nat) : Object → List Word
  | .standby o => [o.read s.settings i]
  | .live o => [o.read s.settings i]
  | .status o => o.read s i
  | .table o => o.read b i

/-- The values of several elements, in order. -/
def readValues (s : State) (b : Bank) (o : Object) (index count : Nat) : List Word :=
  (List.range count).flatMap fun k => o.read s b (index + k)

/-- A Read (R161): BAD_OBJECT; for a table object BAD_VALUE for the selector, then PROTECTED; BAD_INDEX; DONE. -/
def answerRead (object selector : Byte) (index : Word) (count : Byte) (s : State) : Answer :=
  match objectOf object with
  | none => .refuse .badObject
  | some (.table o) =>
    match selectedBank s selector with
    | none => .at .badValue 0
    | some b =>
      if s.agent.protect then .refuse .readProtected
      else if boundsOk s (.table o) index.toNat count.toNat then
        ⟨.done, readValues s b (.table o) index.toNat count.toNat⟩
      else .refuse .badIndex
  | some o =>
    if boundsOk s o index.toNat count.toNat then
      ⟨.done, readValues s (s.tables.bank s.tables.active) o index.toNat count.toNat⟩
    else .refuse .badIndex

/-- Reading changes no state of the part (R161); a Copy in flight has written some of its items by then (R122, R123,
log 8). -/
def readRequest (object selector : Byte) (index : Word) (count : Byte) (s : State) : State × Option Answer :=
  let s := copyProgress s
  (s, some (answerRead object selector index count s))

/-! ### Write (R115, R160, R162, R163) -/

/-- How many elements the values of a Write form, when the index and that count are within R160. -/
def writeCount (s : State) (o : Object) (index : Nat) (values : List Word) : Option Nat :=
  if values.length ≤ Config.valuesMax then
    match elementsFormed o.size values.length index values.length with
    | some n => if 1 ≤ n ∧ index + n ≤ o.elements s then some n else none
    | none => none
  else none

/-- Pulse Mode and Pulse Ratio reset the residue; Reverse Limit clamps the debt (R25). -/
def settingStored (o : SettingS) (s : State) : State :=
  match o with
  | .pulseMode | .pulseRatio => s.setPosition { s.position with residue := 0 }
  | .reverseLimit => s.setPosition { s.position with debt := min s.position.debt s.settings.reverseLimit.toNat }
  | .laneCount | .scanLag | .silenceDistance | .maxSheetLength | .decisionDistance | .gateDistance | .routeLead
  | .staleDistance | .markerDistance | .rowPitch | .dotLength | .divertDistance | .retireDistance => s

/-- Store one value of a Group S setting. -/
def storeS (o : SettingS) (i : Nat) (vs : List Word) (st : Settings) : Except Nat Settings :=
  match vs with
  | [w] => o.store i w st
  | _ => .error 0

/-- Store one value of a Group L setting. -/
def storeL (o : SettingL) (i : Nat) (vs : List Word) (st : Settings) : Except Nat Settings :=
  match vs with
  | [w] => o.store i w st
  | _ => .error 0

/-- A Write of a table object is refused while a Copy is in flight, or the other bank is RETIRING or a commit is pending
(R115, R117, R122). -/
def tableBusy (s : State) : Option Answer :=
  if s.tables.copyInFlight then some (.refuse .copyBusy)
  else if s.tables.otherState = .retiring || s.tables.commitPending then some (.refuse .bankBusy)
  else none

/-- A Write of a Group S object of `n` elements (R162). -/
def writeStandby (o : SettingS) (index n : Nat) (values : List Word) (s : State) : State × Option Answer :=
  if s.agent.mode ≠ .standby then (s, some (.refuse .refusedMode))
  else
    match storeAll (fun _ => 1) (storeS o) n index 0 values s.settings with
    | .error p => (s, some (.at .badValue p))
    | .ok st => (settingStored o (s.setSettings st), some .done)

/-- A Write of a Group L object of `n` elements (R162, R179). -/
def writeLive (o : SettingL) (index n : Nat) (values : List Word) (s : State) : State × Option Answer :=
  match storeAll (fun _ => 1) (storeL o) n index 0 values s.settings with
  | .error p => (s, some (.at .badValue p))
  | .ok st => (s.setSettings st, some .done)

/-- A Write of a table object of `n` elements, to the STAGING bank (R115, R116). -/
def writeTableObject (o : TableObject) (index n : Nat) (values : List Word) (s : State) : State × Option Answer :=
  match tableBusy s with
  | some a => (s, some a)
  | none =>
    match storeAll (Object.table o).size o.store n index 0 values (s.tables.bank s.tables.other) with
    | .error p => (s, some (.at .badValue p))
    | .ok b => (s.setTables (s.tables.setBank s.tables.other b), some .done)

/-- A Write (R162, R163): BAD_OBJECT, BAD_INDEX, then the tests of the object's group. -/
def writeRequest (object : Byte) (index : Word) (values : List Word) (s : State) : State × Option Answer :=
  match objectOf object with
  | none => (s, some (.refuse .badObject))
  | some (.status _) => (s, some (.refuse .badObject))
  | some o =>
    match writeCount s o index.toNat values with
    | none => (s, some (.refuse .badIndex))
    | some n =>
      match o with
      | .standby x => writeStandby x index.toNat n values s
      | .live x => writeLive x index.toNat n values s
      | .table x => writeTableObject x index.toNat n values s
      | .status _ => (s, some (.refuse .badObject))

/-! ### Commit and Copy (R117, R122, R163) -/

/-- A Commit request (R117). -/
def commitRequest (s : State) : State × Option Answer :=
  match tableBusy s with
  | some a => (s, some a)
  | none =>
    match firstCommitFailure s.settings (s.tables.bank s.tables.other) with
    | some i => (s, some (.at .tableInvalid i))
    | none =>
      (commitIfQueueEmpty (Ctx.now s) (s.setTables { s.tables with commitPending := true }), some .done)

/-- A Copy request: its REPLY waits for the completion (R122, R163). -/
def copyRequest (h : ReqHeader) (s : State) : State × Option Answer :=
  match tableBusy s with
  | some a => (s, some a)
  | none =>
    ((s.setTables { s.tables with copyInFlight := true }).setAgent
      { s.agent with copyReply := some ⟨h.number, requestAnswered h s⟩ }, none)

/-! ### Mode (R30, R31, R166 to R169) -/

/-- The largest Gate Distance; only installed gates are above 0 (R31). -/
def largestGate (st : Settings) : Int := st.gateDistance.toList.foldl (fun m g => max m (g.toNat : Int)) 0

/-- The configuration checks of Table 2-4 in order of their codes; true means the check passes (R30, R31). -/
def configChecks (st : Settings) (b : Bank) : List (Nat × Bool) :=
  let z := fun (w : Word) => (w.toNat : Int)
  let gates := st.gateDistance.toList.filter fun g => g ≠ 0
  [(1, decide (z st.decisionDistance > z st.maxSheetLength + z st.scanLag + 255)),
   (2, !gates.isEmpty && gates.all fun g => decide (z g - z st.routeLead > z st.decisionDistance)),
   (3, st.markerDistance = 0 || decide (z st.markerDistance > z st.decisionDistance)),
   (4, decide (z st.divertDistance > largestGate st - z st.routeLead + z st.staleDistance)),
   (5, decide (z st.retireDistance ≥ z st.divertDistance) && decide (z st.retireDistance ≥ largestGate st) &&
       decide (z st.retireDistance ≥ z st.markerDistance + 3 * z st.rowPitch + z st.dotLength)),
   (6, decide (z st.dotLength ≤ z st.rowPitch)),
   (7, (firstCommitFailure st b).isNone)]

/-- The code of the first configuration check that fails (R30). -/
def firstConfigFailure (s : State) : Option Nat :=
  ((configChecks s.settings (s.tables.bank s.tables.active)).find? (fun x => !x.2)).map (·.1)

/-- DONE with the mode standing and the number of entries dropped (R166). -/
def modeAnswer (dropped : Nat) (s : State) : Answer := ⟨.done, [val s.agent.mode.code, val dropped]⟩

/-- Pair a state with the REPLY of a Mode request. -/
def withMode (dropped : Nat) (s : State) : State × Option Answer := (s, some (modeAnswer dropped s))

/-- Streaming begins from STANDBY: line test ended, frame number absent, silence watch armed, mode STREAMING (R167). -/
def beginStreaming (s : State) : State :=
  let s := s.setAgent { s.agent with lineTest := none }
  let s := armSilence (s.setScan { s.scan with expected := none })
  setMode .streaming s

/-- A Mode request targeting STREAMING (R167). -/
def modeStreaming (s : State) : State × Option Answer :=
  match s.agent.mode with
  | .standby =>
    match firstConfigFailure s with
    | some code => (s, some (.at .checkFailed code))
    | none => withMode 0 (beginStreaming s)
  | .draining => withMode 0 (setMode .streaming s)
  | .streaming | .loading => withMode 0 s

/-- A Mode request targeting STANDBY_DRAIN (R168). -/
def modeDrain (s : State) : State × Option Answer :=
  match s.agent.mode with
  | .streaming => withMode 0 (drainEnd (Ctx.now s) (setMode .draining s))
  | .standby | .draining | .loading => withMode 0 s

/-- A Mode request targeting STANDBY_FLUSH (R169). -/
def modeFlush (s : State) : State × Option Answer :=
  match s.agent.mode with
  | .streaming | .draining => withMode s.tracker.sheets.length (setMode .standby (flush (Ctx.now s) s))
  | .standby | .loading => withMode 0 s

/-- A Mode request by its target code (R166). -/
def modeRequest (target : Byte) (s : State) : State × Option Answer :=
  match target.toNat with
  | 1 => modeStreaming s
  | 2 => modeDrain s
  | 3 => modeFlush s
  | _ => (s, some (.at .badValue 0))

/-! ### Clear, Test, Ident, Restart -/

/-- Clear the flags named (R164). -/
def clearCodes (codes : List Byte) (s : State) : State :=
  codes.foldl (fun s c => clearFlagCode c.toNat s) s

/-- A Clear request: every code is tested before anything is cleared; bit 0 of the choices chooses the grade counters,
bit 1 the rejected-record counter (R164, Table 12-4). -/
def clearRequest (choices : Byte) (codes : List Byte) (s : State) : State × Option Answer :=
  match codes.findIdx? fun c => 15 < c.toNat with
  | some i => (s, some (.at .badValue i))
  | none =>
    let s := clearCodes codes s
    let s := if choices.getLsbD 0 then s.setAttention { s.attention with grades := Vector.replicate 16 0 } else s
    let s := if choices.getLsbD 1 then s.setScan { s.scan with rejected := 0 } else s
    (s, some .done)

/-- The four values of a Test REPLY (R171, R189). -/
def levelValues (p : Pins) : List Word := [valBool p.encA, valBool p.encDir, valBool p.ready, valBool p.deck]

/-- The input levels sampled at a Test request: a READY found high with records waiting begins sending (R134, log 10). -/
def sampleLevels (levels : Pins) (s : State) : State := tryBegin (s.setPins levels)

/-- A Test request, with the input levels sampled at its taking (R171). -/
def testRequest (action level : Byte) (nozzles : NozzleSet) (levels : Pins) (s : State) : State × Option Answer :=
  if s.agent.mode ≠ .standby then (s, some (.refuse .refusedMode))
  else
    match action.toNat with
    | 1 =>
      (sampleLevels levels (s.setAgent { s.agent with lineTest := some ⟨level ≠ 0, nozzles⟩ }),
        some ⟨.done, levelValues levels⟩)
    | 2 => (sampleLevels levels (s.setAgent { s.agent with lineTest := none }), some ⟨.done, levelValues levels⟩)
    | _ => (s, some (.at .badValue 0))

/-- An Ident request (R165). -/
def identRequest (s : State) : State × Option Answer := (s, some ⟨.done, identValues s⟩)

/-- A Restart request: a warm reset with cause COMMAND and no REPLY (R173). -/
def restartRequest (h : ReqHeader) (s : State) : State × Option Answer :=
  (warmReset ⟨.command, some h.number, some s.agent.mode, some (entriesLost s), false⟩ s, none)

/-- A request whose kind is unknown or whose fields do not fit (R159). -/
def misfitRequest (s : State) : State × Option Answer := (s, some (.refuse .badObject))

/-- What a request does, by its kind and fields; none when they do not fit (R159). -/
def actOnRequest (h : ReqHeader) (levels : Pins) : Option Request → State → State × Option Answer
  | none => misfitRequest
  | some (.read o sel i n) => readRequest o sel i n
  | some (.write o i vs) => writeRequest o i vs
  | some .commit => commitRequest
  | some .copy => copyRequest h
  | some (.mode t) => modeRequest t
  | some (.clear ch codes) => clearRequest ch codes
  | some (.test a l n) => testRequest a l n levels
  | some .ident => identRequest
  | some .restart => restartRequest h

/-! ### The commands of the request rows -/

/-- UNKNOWN_REQUEST (R159): fields that do fit are the request they spell (log 22). -/
def execUnknownRequest (h : ReqHeader) (kind : Byte) (fields : List Byte) (s : State) :
    Host.Outcome State Fault Refusal :=
  .next (takeRequest h (actOnRequest h s.pins (parseRequest kind fields)) s)

/-- READ (R161). -/
def execRead (h : ReqHeader) (object selector : Byte) (index : Word) (count : Byte) (s : State) :
    Host.Outcome State Fault Refusal :=
  .next (takeRequest h (readRequest object selector index count) s)

/-- WRITE (R162). -/
def execWrite (h : ReqHeader) (object : Byte) (index : Word) (values : List Word) (s : State) :
    Host.Outcome State Fault Refusal :=
  .next (takeRequest h (writeRequest object index values) s)

/-- WRITE_PULSE_MODE (R25). -/
def execWritePulseMode (h : ReqHeader) (index : Word) (values : List Word) (s : State) :
    Host.Outcome State Fault Refusal :=
  .next (takeRequest h (writeRequest 0x01 index values) s)

/-- WRITE_PULSE_RATIO (R25). -/
def execWritePulseRatio (h : ReqHeader) (index : Word) (values : List Word) (s : State) :
    Host.Outcome State Fault Refusal :=
  .next (takeRequest h (writeRequest 0x02 index values) s)

/-- WRITE_REVERSE_LIMIT (R25). -/
def execWriteReverseLimit (h : ReqHeader) (index : Word) (values : List Word) (s : State) :
    Host.Outcome State Fault Refusal :=
  .next (takeRequest h (writeRequest 0x03 index values) s)

/-- WRITE_ALERT_MASK (R179). -/
def execWriteAlertMask (h : ReqHeader) (index : Word) (values : List Word) (s : State) :
    Host.Outcome State Fault Refusal :=
  .next (takeRequest h (writeRequest 0x18 index values) s)

/-- WRITE_TABLE (R115). -/
def execWriteTable (h : ReqHeader) (object : Byte) (index : Word) (values : List Word) (s : State) :
    Host.Outcome State Fault Refusal :=
  .next (takeRequest h (writeRequest object index values) s)

/-- COMMIT (R117). -/
def execCommit (h : ReqHeader) (s : State) : Host.Outcome State Fault Refusal :=
  .next (takeRequest h commitRequest s)

/-- COPY (R122). -/
def execCopy (h : ReqHeader) (s : State) : Host.Outcome State Fault Refusal :=
  .next (takeRequest h (copyRequest h) s)

/-- MODE_STREAMING (R167). -/
def execModeStreaming (h : ReqHeader) (s : State) : Host.Outcome State Fault Refusal :=
  .next (takeRequest h (modeRequest 1) s)

/-- MODE_STANDBY_DRAIN (R168). -/
def execModeStandbyDrain (h : ReqHeader) (s : State) : Host.Outcome State Fault Refusal :=
  .next (takeRequest h (modeRequest 2) s)

/-- MODE_STANDBY_FLUSH (R169). -/
def execModeStandbyFlush (h : ReqHeader) (s : State) : Host.Outcome State Fault Refusal :=
  .next (takeRequest h (modeRequest 3) s)

/-- MODE_REQUEST_BAD_TARGET (R166). -/
def execModeRequestBadTarget (h : ReqHeader) (target : Byte) (s : State) : Host.Outcome State Fault Refusal :=
  .next (takeRequest h (modeRequest target) s)

/-- CLEAR_FLAGS (R164). -/
def execClearFlags (h : ReqHeader) (choices : Byte) (codes : List Byte) (s : State) :
    Host.Outcome State Fault Refusal :=
  .next (takeRequest h (clearRequest choices codes) s)

/-- CLEAR_GRADE_COUNTERS (R164): a Clear whose choice bit 0 is set. -/
def execClearGradeCounters (h : ReqHeader) (choices : Byte) (codes : List Byte) (s : State) :
    Host.Outcome State Fault Refusal :=
  .next (takeRequest h (clearRequest (choices ||| 1) codes) s)

/-- CLEAR_REJECTED_COUNT (R6, R164): a Clear whose choice bit 1 is set. -/
def execClearRejectedCount (h : ReqHeader) (choices : Byte) (codes : List Byte) (s : State) :
    Host.Outcome State Fault Refusal :=
  .next (takeRequest h (clearRequest (choices ||| 2) codes) s)

/-- TEST_HOLD (R171). -/
def execTestHold (h : ReqHeader) (level : Byte) (nozzles : NozzleSet) (levels : Pins) (s : State) :
    Host.Outcome State Fault Refusal :=
  .next (takeRequest h (testRequest 1 level nozzles levels) s)

/-- TEST_RELEASE (R171): level and nozzle set are not examined (R187). -/
def execTestRelease (h : ReqHeader) (level : Byte) (nozzles : NozzleSet) (levels : Pins) (s : State) :
    Host.Outcome State Fault Refusal :=
  .next (takeRequest h (testRequest 2 level nozzles levels) s)

/-- TEST_REQUEST_BAD_ACTION (R171). -/
def execTestRequestBadAction (h : ReqHeader) (action level : Byte) (nozzles : NozzleSet) (s : State) :
    Host.Outcome State Fault Refusal :=
  .next (takeRequest h (testRequest action level nozzles s.pins) s)

/-- IDENT (R165). -/
def execIdent (h : ReqHeader) (s : State) : Host.Outcome State Fault Refusal :=
  .next (takeRequest h identRequest s)

/-- RESTART (R173). -/
def execRestart (h : ReqHeader) (s : State) : Host.Outcome State Fault Refusal :=
  .next (takeRequest h (restartRequest h) s)

/-! ### The Scan Stream line (R1, R4) -/

/-- A record that has passed the integrity check, by its kind (R11). -/
def takeRecord (r : ScanRecord) (s : State) : State :=
  match r with
  | .frame deck n => frameRecordTaken deck n s
  | .openSheet deck f l off => openRecordTaken deck f l off s
  | .feature deck lane k a w off => featureRecordTaken deck lane k a w off s
  | .moist deck lane r t => moistRecordTaken deck lane r t s
  | .closeSheet deck f l off => closeRecordTaken deck f l off s
  | .request h kind fields => takeRequest h (actOnRequest h s.pins (parseRequest kind fields)) s

/-- The bytes of a record that its end mark has taken are judged (R1, R4); in LOADING they are discarded unjudged (R9). -/
def judgeRecord (bytes : List Byte) (s : State) : State :=
  let s := endFraming s
  if s.agent.mode = .loading then s
  else
    match parseRecord bytes with
    | some r => takeRecord r s
    | none => rejectRecord s

/-- Set the receive framing. -/
def setFraming (f : Framing) (s : State) : State := s.setScan { s.scan with framing := f }

/-- One symbol of the line (R1, log 4). -/
def lineSymbol (x : LineSymbol) (s : State) : State :=
  match x, s.scan.framing with
  | .start, _ => setFraming (.receiving []) (startMark s)
  | .byte _, .hunting => s
  | .byte b, .receiving held => setFraming (.receiving (held ++ [b])) s
  | .stop, .hunting => s
  | .stop, .receiving [] => endFraming s
  | .stop, .receiving (b :: held) => judgeRecord (b :: held) s

/-- The symbols of the line, in order of arrival (R12). -/
def takeLine (line : List LineSymbol) (s : State) : State := line.foldl (fun s x => lineSymbol x s) s

/-- REJECTED_RECORD (R6): what the line delivers, through the receive framing and the integrity check; a record that
passes is the record its bytes spell (log 3). -/
def execRejectedRecord (line : List LineSymbol) (s : State) : Host.Outcome State Fault Refusal :=
  .next (takeLine line s)

end Sys2Proof.Machine
end

