-- ==== Sys2Proof/Machine/Dispatch.lean ====
section
/-! DEFINITION. One arm for each command: its meaning. -/
namespace Sys2Proof.Machine

def exec (i : Instr) (s : State) : Host.Outcome State Fault Refusal :=
  match i with
  | .frame d n => Sys2Proof.Machine.execFrame d n s
  | .openSheet d f l o => Sys2Proof.Machine.execOpen d f l o s
  | .feature d l k a w o => Sys2Proof.Machine.execFeature d l k a w o s
  | .moist d l r t => Sys2Proof.Machine.execMoist d l r t s
  | .closeSheet d f l o => Sys2Proof.Machine.execClose d f l o s
  | .rejectedRecord l => Sys2Proof.Machine.execRejectedRecord l s
  | .unknownRequest h k f => Sys2Proof.Machine.execUnknownRequest h k f s
  | .read h o b n c => Sys2Proof.Machine.execRead h o b n c s
  | .write h o n v => Sys2Proof.Machine.execWrite h o n v s
  | .writePulseMode h n v => Sys2Proof.Machine.execWritePulseMode h n v s
  | .writePulseRatio h n v => Sys2Proof.Machine.execWritePulseRatio h n v s
  | .writeReverseLimit h n v => Sys2Proof.Machine.execWriteReverseLimit h n v s
  | .writeAlertMask h n v => Sys2Proof.Machine.execWriteAlertMask h n v s
  | .writeTable h o n v => Sys2Proof.Machine.execWriteTable h o n v s
  | .commit h => Sys2Proof.Machine.execCommit h s
  | .copy h => Sys2Proof.Machine.execCopy h s
  | .modeStreaming h => Sys2Proof.Machine.execModeStreaming h s
  | .modeStandbyDrain h => Sys2Proof.Machine.execModeStandbyDrain h s
  | .modeStandbyFlush h => Sys2Proof.Machine.execModeStandbyFlush h s
  | .clearFlags h c f => Sys2Proof.Machine.execClearFlags h c f s
  | .clearGradeCounters h c f => Sys2Proof.Machine.execClearGradeCounters h c f s
  | .clearRejectedCount h c f => Sys2Proof.Machine.execClearRejectedCount h c f s
  | .testHold h l n p => Sys2Proof.Machine.execTestHold h l n p s
  | .testRelease h l n p => Sys2Proof.Machine.execTestRelease h l n p s
  | .ident h => Sys2Proof.Machine.execIdent h s
  | .restart h => Sys2Proof.Machine.execRestart h s
  | .forwardPulse w => Sys2Proof.Machine.execForwardPulse w s
  | .reversePulse => Sys2Proof.Machine.execReversePulse s
  | .readyRise => Sys2Proof.Machine.execReadyRise s
  | .silencePosition => Sys2Proof.Machine.execSilencePosition s
  | .overlength t => Sys2Proof.Machine.execOverlength t s
  | .decisionPoint t => Sys2Proof.Machine.execDecisionPoint t s
  | .retirement t => Sys2Proof.Machine.execRetirement t s
  | .forcedSeal => Sys2Proof.Machine.execForcedSeal s
  | .clearing => Sys2Proof.Machine.execClearing s
  | .releasePosition t => Sys2Proof.Machine.execReleasePosition t s
  | .firePoint t => Sys2Proof.Machine.execFirePoint t s
  | .staleExpiry t => Sys2Proof.Machine.execStaleExpiry t s
  | .divertWindowOpening t => Sys2Proof.Machine.execDivertWindowOpening t s
  | .divertWindowClosing t => Sys2Proof.Machine.execDivertWindowClosing t s
  | .blindIntervalOpening => Sys2Proof.Machine.execBlindIntervalOpening s
  | .blindIntervalClosing => Sys2Proof.Machine.execBlindIntervalClosing s
  | .stampStart t => Sys2Proof.Machine.execStampStart t s
  | .dotEnd => Sys2Proof.Machine.execDotEnd s
  | .rowPosition => Sys2Proof.Machine.execRowPosition s
  | .evaluationStart => Sys2Proof.Machine.execEvaluationStart s
  | .evaluationCompletion => Sys2Proof.Machine.execEvaluationCompletion s
  | .copyCompletion => Sys2Proof.Machine.execCopyCompletion s
  | .commitTakesEffect => Sys2Proof.Machine.execCommitTakesEffect s
  | .bankRelease => Sys2Proof.Machine.execBankRelease s
  | .drainEndNotice => Sys2Proof.Machine.execDrainEndNotice s
  | .beginSending => Sys2Proof.Machine.execBeginSending s
  | .sendingCompletion r => Sys2Proof.Machine.execSendingCompletion r s
  | .powerOn => Sys2Proof.Machine.execPowerOn s
  | .pinReset => Sys2Proof.Machine.execPinReset s
  | .loadingEnd o p => Sys2Proof.Machine.execLoadingEnd o p s
  | .modeRequestBadTarget h t => Sys2Proof.Machine.execModeRequestBadTarget h t s
  | .testRequestBadAction h a l n => Sys2Proof.Machine.execTestRequestBadAction h a l n s

end Sys2Proof.Machine
end

