-- ==== Sys2Proof/WellFormed.lean ====
section
/-! DEFINITION. When a command's operands are those of the row it names. A command that is not well-formed still has a
meaning (log 22); these checks say which row a record or request belongs to. -/
namespace Sys2Proof

/-- The object codes of Table 12-5 that have a row of their own, or belong to the Table group. -/
def isTableCode (object : Byte) : Bool := 0x40 ≤ object.toNat && object.toNat ≤ 0x4E

/-- Objects whose Write is a row of its own: Pulse Mode, Pulse Ratio, Reverse Limit, Alert Mask. -/
def isSpecialCode (object : Byte) : Bool :=
  object = 0x01 || object = 0x02 || object = 0x03 || object = 0x18

/-- The bytes of the line when it delivers exactly one record after a start mark, and whether its end was lost (R1). -/
def lineRecord : List LineSymbol → Option (List Byte × Bool)
  | .start :: rest =>
    let rec go (held : List Byte) : List LineSymbol → Option (List Byte × Bool)
      | [.stop] => some (held, false)
      | [.start] => some (held, true)
      | .byte b :: more => go (held ++ [b]) more
      | _ => none
    go [] rest
  | _ => none

/-- A line that delivers one record that fails the integrity check, or loses its end (R1, R4). -/
def lineFails (line : List LineSymbol) : Bool :=
  match lineRecord line with
  | some (bytes, lost) => lost || (bytes ≠ [] && (parseRecord bytes).isNone)
  | none => false

/-- A command whose operands are those of its row. -/
def Instr.wf : Instr → Bool
  | .rejectedRecord line => lineFails line
  | .unknownRequest _ kind fields => fields.length ≤ 51 && (parseRequest kind fields).isNone
  | .write _ object _ values =>
    values.length ≤ Config.valuesMax && !isTableCode object && !isSpecialCode object
  | .writePulseMode _ _ values | .writePulseRatio _ _ values | .writeReverseLimit _ _ values
  | .writeAlertMask _ _ values => values.length ≤ Config.valuesMax
  | .writeTable _ object _ values => values.length ≤ Config.valuesMax && isTableCode object
  | .clearFlags _ _ codes => codes.length ≤ 16
  | .clearGradeCounters _ choices codes => codes.length ≤ 16 && choices.getLsbD 0
  | .clearRejectedCount _ choices codes => codes.length ≤ 16 && choices.getLsbD 1
  | .modeRequestBadTarget _ target => target.toNat = 0 || 3 < target.toNat
  | .testRequestBadAction _ action _ _ => action.toNat = 0 || 2 < action.toNat
  | .frame .. | .openSheet .. | .feature .. | .moist .. | .closeSheet .. | .read .. | .commit _ | .copy _
  | .modeStreaming _ | .modeStandbyDrain _ | .modeStandbyFlush _ | .testHold .. | .testRelease .. | .ident _
  | .restart _ | .forwardPulse _ | .reversePulse | .readyRise | .silencePosition | .overlength _ | .decisionPoint _
  | .retirement _ | .forcedSeal | .clearing | .releasePosition _ | .firePoint _ | .staleExpiry _
  | .divertWindowOpening _ | .divertWindowClosing _ | .blindIntervalOpening | .blindIntervalClosing | .stampStart _
  | .dotEnd | .rowPosition | .evaluationStart | .evaluationCompletion | .copyCompletion | .commitTakesEffect
  | .bankRelease | .drainEndNotice | .beginSending | .sendingCompletion _ | .powerOn | .pinReset
  | .loadingEnd .. => true

end Sys2Proof
end

