-- ==== Sys2Proof/Safety.lean ====
section
/-! DEFINITION. The words the statements are written in: the invariants of a state that a run can reach, which commands
are of which kind, and what a statement says of an entry, a position, a flag or a REPLY. -/
namespace Sys2Proof.Safety
open Sys2Proof.Machine

/-! ### Invariants -/

/-- The tags of the Sheet Queue, oldest first. -/
def tagsOf (s : State) : List Tag := s.tracker.sheets.map (·.tag)

/-- Tags of the Sheet Queue are pairwise distinct (R33). -/
def tagsDistinct (s : State) : Prop := (tagsOf s).Nodup

/-- The Sheet Queue holds at most 24 entries with pairwise distinct tags (R33). -/
def queueKept (s : State) : Prop := s.tracker.sheets.length ≤ Config.sheetQueueMax ∧ tagsDistinct s

/-- The Output Queue holds at most 32 records, at most 24 of them not ROUTE records (R133). -/
def outputKept (s : State) : Prop :=
  s.link.queue.length ≤ Config.outputQueueMax ∧ nonRouteCount s.link.queue ≤ Config.nonRouteMax

/-- With READY high and no record in sending nothing waits: sending has begun (R134). -/
def linkAtRest (s : State) : Prop := s.pins.ready = true → s.link.sending = none → s.link.queue = []

/-- In LOADING the Output Queue is empty (R146) and nothing in the Table Store can offer a record: no commit is pending,
no Copy is in flight, and no bank is RETIRING (R129, R178). -/
def loadingAtRest (s : State) : Prop :=
  s.agent.mode = .loading → s.link = ⟨[], none⟩ ∧ s.tables.commitPending = false ∧ s.tables.copyInFlight = false ∧
    s.tables.otherState = .staging

/-- The reverse debt never exceeds the Reverse Limit (R21). -/
def debtKept (s : State) : Prop := s.position.debt ≤ s.settings.reverseLimit.toNat

/-- In DIVIDE mode the Pulse Ratio lies in 1 to 4096 and the residue below it (R22, R25); in MULTIPLY mode the ratio lies in 2 to 128
and the residue is 0 (R23, R25). -/
def conditionerKept (s : State) : Prop :=
  match s.settings.pulseMode with
  | .divide => s.position.residue < s.settings.pulseRatio.toNat ∧ s.settings.pulseRatio.toNat ≤ 4096
  | .multiply => s.position.residue = 0 ∧ 2 ≤ s.settings.pulseRatio.toNat ∧ s.settings.pulseRatio.toNat ≤ 128

/-- A line test never stands outside STANDBY (R172). -/
def testKept (s : State) : Prop := s.agent.lineTest.isSome = true → s.agent.mode = .standby

/-- The Grading List, the evaluation in flight and the stamp in print name entries of the Sheet Queue (R92, R105, R155);
the divert interval has ended with the Blind Span (R54); and in LOADING and STANDBY the Sheet Queue and the Blind Span
are empty (R55). -/
def trackingKept (s : State) : Prop :=
  (∀ tag ∈ s.evaluator.list, tag ∈ tagsOf s) ∧
  (∀ f, s.evaluator.inFlight = some f → f.tag ∈ tagsOf s) ∧
  (∀ p, s.marker = some p → p.tag ∈ tagsOf s) ∧
  (s.tracker.blind = none → s.interval.phase = .ended) ∧
  (s.agent.mode = .loading ∨ s.agent.mode = .standby → s.tracker.sheets = [] ∧ s.tracker.blind = none)

/-- Number of entries of the Sheet Queue that hold a bank. -/
def holdersOf (id : BankId) (s : State) : Nat :=
  (s.tracker.sheets.filter fun e => e.holding && e.bank = id).length

/-- Each holder count is the number of entries in the Sheet Queue that hold the bank, and the bank that is not ACTIVE is
RETIRING exactly while some entry holds it (R113). -/
def holdsKept (s : State) : Prop :=
  tagsDistinct s ∧ s.tables.holders0 = holdersOf .bank0 s ∧ s.tables.holders1 = holdersOf .bank1 s ∧
  (s.tables.otherState = .retiring ↔ 0 < s.tables.holders s.tables.other)

/-! ### Commands by kind -/

/-- The deck of a traffic record, and whether its fields pass the field check in a state (Table 1-9); none for any other
command. -/
def traffic (s : State) : Instr → Option (BitVec 1 × Bool)
  | .frame d _ => some (d, true)
  | .openSheet d f l _ | .closeSheet d f l _ => some (d, spanOk s f l)
  | .feature d lane _ a w _ => some (d, featureOk s lane a w)
  | .moist d lane _ t => some (d, moistOk s lane t)
  | _ => none

/-- The header of a REQUEST record; none for any other command. -/
def header : Instr → Option ReqHeader
  | .unknownRequest h _ _ | .read h _ _ _ _ | .write h _ _ _ | .writePulseMode h _ _ | .writePulseRatio h _ _
  | .writeReverseLimit h _ _ | .writeAlertMask h _ _ | .writeTable h _ _ _ | .commit h | .copy h | .modeStreaming h
  | .modeStandbyDrain h | .modeStandbyFlush h | .clearFlags h _ _ | .clearGradeCounters h _ _
  | .clearRejectedCount h _ _ | .testHold h _ _ _ | .testRelease h _ _ _ | .ident h | .restart h
  | .modeRequestBadTarget h _ | .testRequestBadAction h _ _ _ => some h
  | _ => none

/-- The watched position a command takes; none for any other command. -/
def position : Instr → Option WatchKind
  | .silencePosition => some .silence
  | .overlength t => some (.overlength t)
  | .decisionPoint t => some (.decision t)
  | .retirement t => some (.retirement t)
  | .forcedSeal => some .forcedSeal
  | .clearing => some .clearing
  | .releasePosition t => some (.release t)
  | .firePoint t => some (.fire t)
  | .staleExpiry t => some (.stale t)
  | .divertWindowOpening t => some (.windowOpening t)
  | .divertWindowClosing t => some (.windowClosing t)
  | .blindIntervalOpening => some .intervalOpening
  | .blindIntervalClosing => some .intervalClosing
  | .stampStart t => some (.stampStart t)
  | .dotEnd => some .dotEnd
  | .rowPosition => some .row
  | _ => none

/-- POWER_ON, PIN_RESET and RESTART. -/
def isReset : Instr → Bool
  | .powerOn | .pinReset | .restart _ => true
  | _ => false

/-! ### What a statement says of a state -/

/-- Sheets are being tracked: STREAMING or DRAINING. -/
def tracks (s : State) : Prop := s.agent.mode = .streaming ∨ s.agent.mode = .draining

/-- Sheets are being tracked and no record is in progress, so that a record that comes whole is the next one (R1). -/
def receives (s : State) : Prop := tracks s ∧ s.scan.framing = .hunting

/-- A position is watched. -/
def watched (s : State) (kind : WatchKind) (pos : Position) : Prop := ∃ w ∈ s.watches, w.kind = kind ∧ w.pos = pos

/-- No position of this kind is watched. -/
def unwatched (s : State) (kind : WatchKind) : Prop := ∀ w ∈ s.watches, w.kind ≠ kind

/-- The position a watcher takes next is `w`, of kind `kind` (R27). -/
def comesDue (s : State) (kind : WatchKind) (w : Watch) : Prop :=
  nextDue s kind.watcher = some w ∧ w.kind = kind

/-- The flags raised are set, and no other changes, but for OUT_DROPPED when an ALERT record finds no room. -/
def raises (fs : List Flag) (s t : State) : Prop :=
  (∀ f ∈ fs, flagSet t f = true) ∧ ∀ g, g ∉ fs → g ≠ .outDropped → flagSet t g = flagSet s g

/-- The entry with a tag becomes `f` of itself; every other entry stays as it is. -/
def entryBecomes (tag : Tag) (f : Entry → Entry) (s t : State) : Prop :=
  t.tracker.sheets = s.tracker.sheets.map fun e => if e.tag = tag then f e else e

/-- Every entry but the one with this tag is as it was. -/
def othersStay (tag : Tag) (s t : State) : Prop := ∀ x, x ≠ tag → findEntry x t = findEntry x s

/-- The fields of a new entry (R35); its bank and generation are those ACTIVE in `t`. -/
def isNew (t : State) (e : Entry) (leading : Position) (first last : Lane) : Prop :=
  e.state = .opened ∧ e.leading = leading ∧ e.trailing = none ∧ e.first = first ∧ e.last = last ∧
  e.bank = t.tables.active ∧ e.generation = t.tables.generation ∧
  e.decision = none ∧ e.wouldBe = none ∧ e.evalStatus = .none ∧ e.route = .pending ∧ e.window = none ∧
  e.flags = ⟨false, false, false, false, false, false, false, false, false, false, false⟩ ∧ e.held = [] ∧
  (∀ k, e.tally.get k = ⟨0, 0, 0⟩) ∧ e.total = 0 ∧ e.moisture = ⟨0, 0, none, 0⟩ ∧ e.holding = true ∧
  watched t (.overlength e.tag) (leading + bu t.settings.maxSheetLength) ∧
  watched t (.decision e.tag) (leading + bu t.settings.decisionDistance)

/-- A pending commit takes effect before a new entry binds to the ACTIVE bank; without one the banks stay (R119, R120). -/
def commitTaken (s t : State) : Prop :=
  (s.tables.commitPending = true →
    t.tables.active = s.tables.other ∧ t.tables.generation = s.tables.generation + 1 ∧
    t.tables.commitPending = false ∧ flagSet t .commitDone = true) ∧
  (s.tables.commitPending = false →
    t.tables.active = s.tables.active ∧ t.tables.generation = s.tables.generation ∧ t.tables.commitPending = false)

/-- What a decision with this gate arms for `e`, the entry as it was before (R130, R149): its fire point, in place of any
other, while its route is PENDING and it is not diverted; and at its first decision its stamp start, when Marker Distance
is above 0. A stamp start watched before stays as it is. -/
def armsPositions (s t : State) (e : Entry) (gate : Fin 6) : Prop :=
  (e.route = .pending → e.flags.diverted = false →
    watched t (.fire e.tag) (e.leading + bu (s.settings.gateDistance.get gate) - bu s.settings.routeLead) ∧
    ∀ w ∈ t.watches, w.kind = .fire e.tag →
      w.pos = e.leading + bu (s.settings.gateDistance.get gate) - bu s.settings.routeLead) ∧
  (e.decision = none → s.settings.markerDistance ≠ 0 →
    watched t (.stampStart e.tag) (e.leading + bu s.settings.markerDistance)) ∧
  (e.decision.isSome = true ∨ s.settings.markerDistance = 0 →
    ∀ p, watched t (.stampStart e.tag) p ↔ watched s (.stampStart e.tag) p)

/-- The release positions watched for an entry are those of the features it holds, each as often as it is held (R64). -/
def releasesKept (e : Entry) (s : State) : Prop :=
  ((s.watches.filter fun w => w.kind = .release e.tag).map (·.pos)).Perm (e.held.map (·.releasePos))

/-- The tally of class `k` after a held feature has been tallied with a zone (R68, R69). -/
def tallyAfter (b : Bank) (zone : Zone) (k : Fin 12) (t : ClassTally) (h : HeldFeature) : ClassTally :=
  if (b.classOf h.kind h.band zone).cls = some k then
    ⟨if t.count < 255 then t.count + 1 else t.count, max t.largest (max h.along.toNat h.across.toNat),
     min (t.area + h.along.toNat * h.across.toNat / 100) 65535⟩
  else t

/-- The total after a feature more (R70). -/
def totalAfter (n : Nat) : Nat := if n < 65535 then n + 1 else n

/-- Whether one of these features is marked fatal in a zone (R71, R73). -/
def anyFatal (b : Bank) (zone : Zone) (held : List HeldFeature) : Bool :=
  held.any fun h => (b.classOf h.kind h.band zone).fatal

/-- `n` positions that were due are taken one after another, each by a watcher that has one; between two watchers the
choice draws a free value (R27, log 7). -/
def takings : Nat → State → State → Prop
  | 0, u, t => t = u
  | n + 1, u, t => ∃ w, (nextDue u w).isSome = true ∧
      (takings n (takeNext w u) t ∨ takings n (takeNext w (draw u)) t)

/-- A record waits in the Output Queue or is the record in sending. -/
def onLink (r : OutRecord) (s : State) : Prop := r ∈ s.link.queue ∨ s.link.sending = some r

/-- What the beginning of a record's sending does to the sheets: the entry of a ROUTE record is SENT and its stale expiry
cancelled; another record changes no sheet and no position (R134). -/
def begins (r : OutRecord) (s t : State) : Prop :=
  (∀ tag gate grade leading, r = .route tag gate grade leading →
    entryBecomes tag (fun e => { e with route := .sent }) s t ∧ unwatched t (.stale tag)) ∧
  ((∀ tag gate grade leading, r ≠ .route tag gate grade leading) → t.tracker = s.tracker ∧ t.watches = s.watches)

/-- A decision from a bank: its grade, its gate, the four rows of its pattern as they stand in the marker section, or none,
the bank's Row Count, and its source (R45, Table 3-2). -/
def decisionIs (b : Bank) (d : Decision) (grade : Nat) (gate : Fin 6) (pattern : Option (Fin 8))
    (source : DecisionSource) : Prop :=
  d.grade.val = grade ∧ d.gate = gate ∧ d.rowCount = b.rowCount.val ∧ d.source = source ∧
  (pattern = none → d.pattern = none) ∧
  ∀ p, pattern = some p → ∃ rows, d.pattern = some rows ∧
    ∀ (i : Fin 4) (j : Fin 32), j.val = p.val * 4 + i.val → rows.get i = b.patterns.get j

/-- The fields of the REPORT of a retiring entry and its decision (Table 8-2, R76, R84, R143). -/
def reportIs (e : Entry) (d : Decision) (r : Report) : Prop :=
  r.tag = e.tag ∧ r.grade = d.grade ∧ r.gate = d.gate ∧ r.generation = e.generation ∧ r.leading = e.leading ∧
  (∀ trailing, e.trailing = some trailing → r.length = trailing - e.leading) ∧
  r.first = e.first ∧ r.last = e.last ∧ r.flags = e.flags ∧ r.wouldBe = e.wouldBe ∧
  r.samples = e.moisture.count ∧ (e.moisture.count = 0 → r.mean = none) ∧
  (0 < e.moisture.count → r.mean = some (e.moisture.sum / e.moisture.count)) ∧
  r.maximum = e.moisture.maximum ∧ r.wet = e.moisture.wet ∧
  r.items = ((List.finRange 12).filter fun k => 0 < (e.tally.get k).count).map fun k => ⟨k, e.tally.get k⟩

/-- The relation of each configuration check of Table 2-4, on whole numbers (R31). A number that is no check code asks
nothing. -/
def configHolds (s : State) : Nat → Prop
  | 1 => s.settings.decisionDistance.toNat > s.settings.maxSheetLength.toNat + s.settings.scanLag.toNat + 255
  | 2 => (∃ g : Fin 6, 0 < (s.settings.gateDistance.get g).toNat) ∧
      ∀ g : Fin 6, 0 < (s.settings.gateDistance.get g).toNat →
        ((s.settings.gateDistance.get g).toNat : Int) - s.settings.routeLead.toNat > s.settings.decisionDistance.toNat
  | 3 => s.settings.markerDistance.toNat = 0 ∨ s.settings.markerDistance.toNat > s.settings.decisionDistance.toNat
  | 4 => ∀ g : Fin 6, 0 < (s.settings.gateDistance.get g).toNat →
      (s.settings.divertDistance.toNat : Int) >
        (s.settings.gateDistance.get g).toNat - s.settings.routeLead.toNat + s.settings.staleDistance.toNat
  | 5 => s.settings.retireDistance.toNat ≥ s.settings.divertDistance.toNat ∧
      (∀ g : Fin 6, s.settings.retireDistance.toNat ≥ (s.settings.gateDistance.get g).toNat) ∧
      s.settings.retireDistance.toNat ≥
        s.settings.markerDistance.toNat + 3 * s.settings.rowPitch.toNat + s.settings.dotLength.toNat
  | 6 => s.settings.dotLength.toNat ≤ s.settings.rowPitch.toNat
  | 7 => firstCommitFailure s.settings (s.tables.bank s.tables.active) = none
  | _ => True

/-- The relation of each item index of Table 7-3 (R118). A number that is no item index asks nothing. -/
def commitHolds (st : Settings) (b : Bank) (i : Nat) : Prop :=
  (i = 1 → (b.bandLimits.get 0).toNat < (b.bandLimits.get 1).toNat ∧
    (b.bandLimits.get 1).toNat < (b.bandLimits.get 2).toNat) ∧
  (i = 2 → ∀ k : Fin 7, (b.knots.get k.castSucc).toNat < (b.knots.get k.succ).toNat) ∧
  (i = 3 → ∀ k : Fin 3, (b.thresholds.get k.castSucc).toNat ≤ (b.thresholds.get k.succ).toNat) ∧
  (i = 4 → 1 ≤ b.rowCount.val ∧ b.rowCount.val ≤ 4) ∧
  (∀ n : Fin 8, i = 16 + n.val → n.val < b.ruleCount.val → 0 < (st.gateDistance.get (b.rules.get n).gate).toNat) ∧
  (∀ n : Fin 8, i = 24 + n.val → n.val < b.ruleCount.val →
    (((b.rules.get n).items.toList.take (b.rules.get n).itemCount.val).map (·.cls)).Nodup) ∧
  ∀ k : Fin 4, i = 32 + k.val → 0 < (st.gateDistance.get (b.outcomes.get k).gate).toNat

/-- A request is taken: after LOADING, with no record in progress before it, at the part's station or the group address
(R1, R9, R157). -/
def takes (h : ReqHeader) (s : State) : Prop :=
  s.agent.mode ≠ .loading ∧ s.scan.framing = .hunting ∧ requestTaken h s = true

/-- The state once the REPLY to a request taken in `s` has been offered, where one is due (R157, R158). -/
def answered (h : ReqHeader) (a : Answer) (s after : State) : State :=
  if requestAnswered h s then sendReply h a after else after

/-- The single-value Group S settings whose Write has no behaviour of its own: code, setting, lowest and highest value
(Tables 2-3 and 12-5). -/
def plainSettings : List (Byte × SettingS × Nat × Nat) :=
  [(0x04, .laneCount, 1, 16), (0x05, .scanLag, 0, 65535), (0x06, .silenceDistance, 16, 65535),
   (0x07, .maxSheetLength, 50, 4000), (0x08, .decisionDistance, 0, 65535), (0x0A, .routeLead, 0, 65535),
   (0x0B, .staleDistance, 1, 65535), (0x0C, .markerDistance, 0, 65535), (0x0D, .rowPitch, 1, 255),
   (0x0E, .dotLength, 1, 255), (0x0F, .divertDistance, 0, 65535), (0x10, .retireDistance, 0, 65535)]

/-- The values of element `k` of a Write of a table object from `index` on (R160). -/
def elementValues (o : TableObject) (index k : Nat) (values : List Word) : List Word :=
  (values.drop (valuesOf (Object.table o).size k index)).take ((Object.table o).size (index + k))

/-- Whether value `j` of element `i` of a table object is in the range of its item (R77, R86, R108, R154, R188). An absent
quantity is not range-checked (R116). -/
def valueFits (o : TableObject) (i : Nat) (vs : List Word) (j : Nat) : Bool :=
  let v := vs.getD j 0
  let present := fun p => vs.getD p 0 ≠ 0
  match o with
  | .classTable => v &&& 0x7F00 = 0 && (v &&& 0x00FF = 0x00FF || (v &&& 0x00FF).toNat ≤ 11)
  | .bandLimits => 1 ≤ v.toNat && v.toNat ≤ 4095
  | .edgeZone => v.toNat ≤ 1000
  | .ruleCount => v.toNat ≤ 8
  | .ruleFields =>
    match i % 9, j with
    | 0, _ => v.toNat ≤ 11
    | 1, _ => v.toNat ≤ 5
    | 2, _ => v = 0x00FF || v.toNat ≤ 7
    | 7, _ => v.toNat ≤ 1
    | 8, _ => v.toNat ≤ 12
    | _, 0 => v.toNat ≤ 1
    | 4, _ => !present 0 || (1 ≤ v.toNat && v.toNat ≤ 16)
    | 5, _ => !present 0 || v.toNat ≤ 999
    | _, _ => true
  | .classLimits =>
    match j with
    | 0 => v.toNat ≤ 11
    | 1 | 3 | 5 => v.toNat ≤ 1
    | 2 => !present 1 || v.toNat ≤ 255
    | 4 => !present 3 || v.toNat ≤ 4095
    | _ => true
  | .outcomes => if j = 0 then v.toNat ≤ 5 else v = 0x00FF || v.toNat ≤ 7
  | .knots => true
  | .curve _ => v.toNat ≤ 999
  | .thresholds => v.toNat ≤ 500
  | .wetLimit => v.toNat ≤ 999
  | .patterns => j ≠ 0 || v.toNat ≤ 0xFF
  | .rowCount => v.toNat ≤ 7

/-- The values of an element as a Read gives them once they are stored: an absent quantity reads as 0 (12.3). -/
def asRead (o : TableObject) (i : Nat) (vs : List Word) : List Word :=
  match o, vs with
  | .ruleFields, [p, v] => if 3 ≤ i % 9 && i % 9 ≤ 6 then [p, if p = 0 then 0 else v] else [p, v]
  | .classLimits, [k, pc, c, ps, z, pa, a] =>
    [k, pc, if pc = 0 then 0 else c, ps, if ps = 0 then 0 else z, pa, if pa = 0 then 0 else a]
  | _, vs => vs

end Sys2Proof.Safety
end

