-- ==== Sys2Proof/Certificates/Slice0/Obligations.lean ====
section
/-! DEFINITION. The statements for the provers. Each names the rule of spec/ it comes from, or the log entry where it is
the model's choice. -/
open Sys2Proof Sys2Proof.Machine Sys2Proof.Safety

/-! ### The queue of commands, and what a command leaves alone -/

/-- A step runs the command at the front of the queue on the state with the queue's rest; with none waiting the part
idles (log 2: the model's choice). -/
def Obligations.StepRunsTheFrontCommand : Prop :=
  (∀ (c : Instr) (rest : List Instr) (s : State),
    step (s.setPending (c :: rest)) = exec c (s.setPending rest)) ∧
  ∀ s : State, s.pending = [] → step s = .next s

/-- Every command completes, and none touches the commands that wait behind it (log 2: the model's choice). -/
def Obligations.EveryCommandCompletes : Prop :=
  ∀ (c : Instr) (s : State), ∃ t, exec c s = .next t ∧ t.pending = s.pending

/-- The belt counter changes only by the advance of a counted forward pulse, and every reset sets it, the residue and
the debt to 0; in LOADING no pulse is taken (R24, R19). A pulse leaves its levels on the inputs (log 10: the model's
choice). -/
def Obligations.BeltChangesOnlyByAdvance : Prop :=
  (∀ (c : Instr) (s t : State), c.wf = true → exec c s = .next t →
    t.position.belt = s.position.belt ∨
    (∃ whole, c = .forwardPulse whole ∧ s.agent.mode ≠ .loading ∧ s.position.debt = 0 ∧
      t.position.belt = s.position.belt +
        (match s.settings.pulseMode with
          | .divide => 1
          | .multiply => s.settings.pulseRatio.setWidth 32)) ∨
    (isReset c = true ∧ t.position = ⟨0, 0, 0⟩)) ∧
  (∀ s, ∃ t, exec .powerOn s = .next t ∧ t.position = ⟨0, 0, 0⟩) ∧
  (∀ s, ∃ t, exec .pinReset s = .next t ∧ t.position = ⟨0, 0, 0⟩) ∧
  (∀ h s, takes h s → ∃ t, exec (.restart h) s = .next t ∧ t.position = ⟨0, 0, 0⟩) ∧
  (∀ s t c, s.agent.mode = .loading → (c = .reversePulse ∨ ∃ whole, c = .forwardPulse whole) →
    exec c s = .next t → t.position = s.position) ∧
  (∀ s whole, ∃ t, exec (.forwardPulse whole) s = .next t ∧ t.pins = { s.pins with encA := true, encDir := false }) ∧
  ∀ s, ∃ t, exec .reversePulse s = .next t ∧ t.pins = { s.pins with encA := true, encDir := true }

/-- Only a Write changes a setting, and power-on (R29, R162, R25, R179); the inputs and the Option Block contents change
only where the model samples or sets them (log 10, log 11). The mode changes only by a Mode request, by the end of
DRAINING, and by the start and the end of LOADING (10.5); the station, responder and protect settings change only at
power-on and at the end of LOADING (R174). Sheets join and leave the queue, and keep their order, only at an OPEN, a
retirement, a flush and a reset (R33); the tag counter moves only at an OPEN and a reset (R34). -/
def Obligations.RegistersChangeOnlyAsStated : Prop :=
  ∀ (c : Instr) (s t : State), c.wf = true → exec c s = .next t →
    (match c with
      | .write .. | .writePulseMode .. | .writePulseRatio .. | .writeReverseLimit .. | .writeAlertMask .. | .powerOn => True
      | _ => t.settings = s.settings) ∧
    (match c with
      | .loadingEnd .. => True
      | _ => t.optionBlock = s.optionBlock) ∧
    (match c with
      | .forwardPulse _ | .reversePulse | .readyRise | .sendingCompletion _ | .testHold .. | .testRelease ..
      | .loadingEnd .. => True
      | _ => t.pins = s.pins) ∧
    (match c with
      | .modeStreaming _ | .modeStandbyDrain _ | .modeStandbyFlush _ | .retirement _ | .clearing | .drainEndNotice
      | .forwardPulse _ | .powerOn | .pinReset | .restart _ | .loadingEnd .. => True
      | _ => t.agent.mode = s.agent.mode) ∧
    (match c with
      | .powerOn | .loadingEnd .. => True
      | _ => t.agent.station = s.agent.station ∧ t.agent.groupResponder = s.agent.groupResponder ∧
          t.agent.protect = s.agent.protect) ∧
    (match c with
      | .openSheet .. | .retirement _ | .forwardPulse _ | .modeStandbyFlush _ | .powerOn | .pinReset | .restart _ => True
      | _ => tagsOf t = tagsOf s) ∧
    (match c with
      | .openSheet .. | .powerOn | .pinReset | .restart _ => True
      | _ => t.tracker.tagCounter = s.tracker.tagCounter)

/-- The items of a bank change only by a Write of a table object, a Copy while it is in flight, as it completes or as a
warm reset cuts it, and power-on (R112, R122, R124); none of the first four changes the ACTIVE bank. A Copy in flight is
seen to have written at a Read (log 8: the model's choice). The ACTIVE bank and its generation change only by a commit
(R120). With distinct tags, the other bank's state and the holder counts change only where an entry binds or stops holding,
at a commit, a release, a flush and a reset (R113, R114, R120, R121). -/
def Obligations.BanksChangeOnlyAsStated : Prop :=
  (∀ (c : Instr) (s t : State), c.wf = true → exec c s = .next t →
    match c with
      | .powerOn | .loadingEnd .. => True
      | .writeTable .. | .copyCompletion => t.tables.bank s.tables.active = s.tables.bank s.tables.active
      | .read .. | .pinReset | .restart _ =>
        t.tables.bank s.tables.active = s.tables.bank s.tables.active ∧
          (s.tables.copyInFlight = false → t.tables.bank0 = s.tables.bank0 ∧ t.tables.bank1 = s.tables.bank1)
      | _ => t.tables.bank0 = s.tables.bank0 ∧ t.tables.bank1 = s.tables.bank1) ∧
  (∀ (c : Instr) (s t : State), c.wf = true → exec c s = .next t →
    match c with
      | .openSheet .. | .retirement _ | .forwardPulse _ | .modeStandbyFlush _ | .commit _ | .commitTakesEffect
      | .powerOn => True
      | _ => t.tables.active = s.tables.active ∧ t.tables.generation = s.tables.generation) ∧
  ∀ (c : Instr) (s t : State), c.wf = true → tagsDistinct s → exec c s = .next t →
    match c with
      | .openSheet .. | .closeSheet .. | .forwardPulse _ | .reversePulse | .silencePosition | .overlength _
      | .decisionPoint _ | .retirement _ | .evaluationCompletion | .commit _ | .commitTakesEffect | .bankRelease
      | .modeStandbyFlush _ | .powerOn | .pinReset | .restart _ => True
      | _ => t.tables.otherState = s.tables.otherState ∧ t.tables.holders0 = s.tables.holders0 ∧
          t.tables.holders1 = s.tables.holders1

/-- The grade counters change only at a retirement, a Clear and power-on (R180); the rejected-record counter only at a
rejection, a Clear and power-on (R6), where a record that comes whole while another is in progress rejects that one (R1;
log 3: the model's choice); the start-up record only at a reset and the end of LOADING (R184); the stamp in
print only at the Marker Driver's positions, a retirement, a flush and a reset (R151, R155, R156); the divert interval
only as the Blind Span and its own positions give (R139, R140, R145); the line test only by a Test or Mode request and a
reset (R172). READY's rise and the beginning and completion of sending leave every flag and counter; the positions of a
forced seal, a release, a window, an interval, a dot and a row, and an evaluation's start, leave the Route Link too. -/
def Obligations.CountersAndOutputsChangeOnlyAsStated : Prop :=
  ∀ (c : Instr) (s t : State), c.wf = true → exec c s = .next t →
    (match c with
      | .retirement _ | .forwardPulse _ | .clearFlags .. | .clearGradeCounters .. | .clearRejectedCount .. | .powerOn => True
      | _ => t.attention.grades = s.attention.grades) ∧
    (match c with
      | .openSheet .. | .feature .. | .moist .. | .closeSheet .. | .rejectedRecord _ | .clearFlags ..
      | .clearGradeCounters .. | .clearRejectedCount .. | .powerOn => True
      | _ => s.scan.framing = .hunting ∨ (traffic s c = none ∧ header c = none) → t.scan.rejected = s.scan.rejected) ∧
    (match c with
      | .powerOn | .pinReset | .restart _ | .loadingEnd .. => True
      | _ => t.attention.startup = s.attention.startup) ∧
    (match c with
      | .stampStart _ | .dotEnd | .rowPosition | .retirement _ | .forwardPulse _ | .modeStandbyFlush _ | .powerOn
      | .pinReset | .restart _ => True
      | _ => t.marker = s.marker) ∧
    (match c with
      | .openSheet .. | .closeSheet .. | .forcedSeal | .clearing | .blindIntervalOpening | .blindIntervalClosing
      | .forwardPulse _ | .modeStandbyFlush _ | .powerOn | .pinReset | .restart _ => True
      | _ => t.interval = s.interval) ∧
    (match c with
      | .testHold .. | .testRelease .. | .modeStreaming _ | .powerOn | .pinReset | .restart _ => True
      | _ => t.agent.lineTest = s.agent.lineTest) ∧
    (match c with
      | .readyRise | .sendingCompletion _ | .beginSending => t.attention = s.attention
      | .forcedSeal | .releasePosition _ | .divertWindowOpening _ | .divertWindowClosing _ | .blindIntervalOpening
      | .blindIntervalClosing | .dotEnd | .rowPosition | .evaluationStart =>
        t.attention = s.attention ∧ t.link = s.link
      | _ => True)

/-- The Blind Span changes only at an OPEN, a CLOSE, its own two positions, a flush and a reset (R51 to R54); residue and
debt only at a pulse, a Write and a reset (R20 to R25); the expected frame number only at a FRAME, an entry to STREAMING
and a reset (R13, R14); the deck value only at power-on and the end of LOADING (R5); a pending commit and a Copy in flight
only as R117 to R124 and R129 say. With the link at rest, a rejected record, a request but for Mode, Test and Restart, and
the events of the banks leave every entry and every watched position; so do a dot, a row and the interval's positions the
entries. -/
def Obligations.SheetsAndSpanChangeOnlyAsStated : Prop :=
  ∀ (c : Instr) (s t : State), c.wf = true → exec c s = .next t →
    (match c with
      | .openSheet .. | .closeSheet .. | .forcedSeal | .clearing | .forwardPulse _ | .modeStandbyFlush _ | .powerOn
      | .pinReset | .restart _ => True
      | _ => t.tracker.blind = s.tracker.blind) ∧
    (match c with
      | .forwardPulse _ | .reversePulse | .write .. | .writePulseMode .. | .writePulseRatio .. | .writeReverseLimit ..
      | .powerOn | .pinReset | .restart _ => True
      | _ => t.position = s.position) ∧
    (match c with
      | .frame .. | .modeStreaming _ | .powerOn | .pinReset | .restart _ => True
      | _ => t.scan.expected = s.scan.expected) ∧
    (match c with
      | .powerOn | .loadingEnd .. => True
      | _ => t.scan.deckValue = s.scan.deckValue) ∧
    (match c with
      | .openSheet .. | .retirement _ | .forwardPulse _ | .modeStandbyFlush _ | .commit _ | .commitTakesEffect | .powerOn
      | .pinReset | .restart _ => True
      | _ => t.tables.commitPending = s.tables.commitPending) ∧
    (match c with
      | .copy _ | .copyCompletion | .powerOn | .pinReset | .restart _ => True
      | _ => t.tables.copyInFlight = s.tables.copyInFlight ∧ t.agent.copyReply = s.agent.copyReply) ∧
    (match c with
      | .rejectedRecord _ | .unknownRequest .. | .read .. | .write .. | .writePulseMode .. | .writePulseRatio ..
      | .writeReverseLimit .. | .writeAlertMask .. | .writeTable .. | .commit _ | .copy _ | .clearFlags ..
      | .clearGradeCounters .. | .clearRejectedCount .. | .ident _ | .modeRequestBadTarget .. | .testRequestBadAction ..
      | .copyCompletion | .commitTakesEffect | .bankRelease =>
        linkAtRest s → t.tracker = s.tracker ∧ t.watches = s.watches
      | .dotEnd | .rowPosition | .blindIntervalOpening | .blindIntervalClosing => t.tracker = s.tracker
      | _ => True)

/-! ### Invariants -/

/-- The machine after reset meets every invariant stated below. -/
def Obligations.ResetMeetsTheInvariants : Prop :=
  queueKept State.reset ∧ outputKept State.reset ∧ linkAtRest State.reset ∧ loadingAtRest State.reset ∧
  debtKept State.reset ∧ conditionerKept State.reset ∧ testKept State.reset ∧ trackingKept State.reset ∧ holdsKept State.reset

/-- Every step keeps the Sheet Queue at 24 entries or fewer, with pairwise distinct tags (R33, R34). -/
def Obligations.StepKeepsTheSheetQueue : Prop :=
  ∀ s t : State, queueKept s → step s = .next t → queueKept t

/-- Every step keeps the Output Queue within its two limits (R133), and leaves the Route Link sending whenever it can send
(R134) and nothing to offer in LOADING before the START record (R146, R178). -/
def Obligations.StepKeepsTheRouteLink : Prop :=
  ∀ s t : State, step s = .next t →
    (outputKept s → outputKept t) ∧
    (linkAtRest s → (s.agent.mode = .loading → s.link.queue = []) → linkAtRest t) ∧
    (loadingAtRest s → trackingKept s → (∀ c ∈ s.pending.head?, c.wf = true) → loadingAtRest t)

/-- Every step keeps the reverse debt within the Reverse Limit (R21); the Pulse Ratio in the range of the Pulse Mode, 1 to
4096 in DIVIDE and 2 to 128 in MULTIPLY; the residue below the ratio in DIVIDE and at 0 in MULTIPLY (R22, R23, R25), and a line test within STANDBY (R172). -/
def Obligations.StepKeepsPulsesAndLineTest : Prop :=
  ∀ s t : State, step s = .next t →
    (debtKept s → debtKept t) ∧ (conditionerKept s → conditionerKept t) ∧ (testKept s → testKept t)

/-- Every step keeps what the Grading List, the evaluator and the marker name within the Sheet Queue, and leaves nothing
tracked in LOADING and STANDBY (R55, R92, R105, R155). -/
def Obligations.StepKeepsTracking : Prop :=
  ∀ s t : State, trackingKept s → step s = .next t → trackingKept t

/-- Every step keeps the holder counts true, and the other bank RETIRING exactly while it is held (R113, R114). -/
def Obligations.StepKeepsTheHolds : Prop :=
  ∀ s t : State, holdsKept s → step s = .next t → holdsKept t

/-! ### Records on the Scan Stream -/

/-- Every record that fits its payload, encoded by the layouts of chapter 12 with its check, is read back as itself. -/
def Obligations.RecordsReadBack : Prop :=
  (∀ r : ScanRecord, r.fits = true → parseRecord (encodeRecord r) = some r) ∧
  ∀ r : Request, r.fits = true → parseRequest r.kindCode r.fields = some r

/-- In LOADING every record taken is discarded without any stage of the check (R9). After LOADING a traffic record of the
other deck is ignored (R5), an accepted one is discarded in STANDBY (R10), and a request to another destination has no
effect and no REPLY (R157). A start mark that finds a record in progress takes it as one that lost its end (R1); with none
in progress it has no effect. It is the model's choice that the rows of whole records and requests bring their start mark
and leave the framing HUNTING (`startMark`, `endFraming`), that a rejected record is given as the symbols of the line (log
3), and that a start mark directly after another ends a record of no bytes (log 4). -/
def Obligations.RecordsAreDiscardedOrIgnored : Prop :=
  (∀ (c : Instr) (s : State), s.agent.mode = .loading → ((traffic s c).isSome ∨ (header c).isSome) →
    exec c s = .next (endFraming s)) ∧
  (∀ (line : List LineSymbol) (s : State), s.agent.mode = .loading →
    ∃ f, exec (.rejectedRecord line) s = .next (setFraming f s)) ∧
  (∀ (c : Instr) (s : State) (deck : BitVec 1) (ok : Bool), traffic s c = some (deck, ok) →
    s.agent.mode ≠ .loading →
    (deck ≠ s.scan.deckValue → exec c s = .next (startMark s)) ∧
    (s.agent.mode = .standby → ok = true → exec c s = .next (startMark s))) ∧
  (∀ (c : Instr) (s : State) (h : ReqHeader), header c = some h → h.dest ≠ s.agent.station → h.dest ≠ 63 →
    exec c s = .next (startMark s)) ∧
  ∀ s : State, s.scan.framing = .hunting → startMark s = s

/-- A record that fails the integrity check, and an own-deck traffic record that fails the field check, is rejected: the
counter rises, saturating at 65535, SCAN_FAULT is set, and stamp, frame number, silence watch, and with the link at rest
sheets and positions, stay (R6, R7); the field checks are those of Table 1-9. A start mark while a record is in progress rejects that one first, outside LOADING
(R1). It is the model's choice that the rows of whole records bring their start mark and that a rejected record is given
as the symbols of the line (log 3), and that a start mark directly after another ends a record of no bytes (log 4). -/
def Obligations.RejectionCounts : Prop :=
  (∀ (c : Instr) (s : State), s.agent.mode ≠ .loading → s.scan.framing = .hunting →
    ((∃ line, c = .rejectedRecord line ∧ c.wf = true) ∨ traffic s c = some (s.scan.deckValue, false)) →
    ∃ t, exec c s = .next t ∧
      t.scan.rejected = (if s.scan.rejected < 65535 then s.scan.rejected + 1 else s.scan.rejected) ∧
      raises [.scanFault] s t ∧
      t.scan.lastStamp = s.scan.lastStamp ∧ t.scan.expected = s.scan.expected ∧ t.scan.silence = s.scan.silence ∧
      (linkAtRest s → t.tracker = s.tracker ∧ t.watches = s.watches)) ∧
  (∀ (s : State) (first last lane : Lane) (along across temperature : Word),
    (spanOk s first last = true ↔ first.toNat < s.settings.laneCount.toNat ∧ last.toNat < s.settings.laneCount.toNat ∧
      first.toNat ≤ last.toNat) ∧
    (featureOk s lane along across = true ↔ lane.toNat < s.settings.laneCount.toNat ∧
      1 ≤ along.toNat ∧ along.toNat ≤ 4095 ∧ 1 ≤ across.toNat ∧ across.toNat ≤ 4095) ∧
    (moistOk s lane temperature = true ↔ lane.toNat < s.settings.laneCount.toNat ∧ temperature.toNat ≤ 500)) ∧
  ∀ (c : Instr) (s : State), (traffic s c).isSome ∨ (header c).isSome →
    exec c s = exec c (startMark s) ∧ (startMark s).scan.framing = .hunting ∧
    (s.scan.framing = .hunting → startMark s = s) ∧
    (s.scan.framing ≠ .hunting → s.agent.mode ≠ .loading →
      (startMark s).scan.rejected = (if s.scan.rejected < 65535 then s.scan.rejected + 1 else s.scan.rejected) ∧
      raises [.scanFault] s (startMark s))

/-- An accepted traffic record taken in STREAMING or DRAINING is stamped with the belt counter, and the silence watch is
armed one Silence Distance on (R8, R15). -/
def Obligations.AcceptedTrafficIsStamped : Prop :=
  ∀ (c : Instr) (s : State), receives s → traffic s c = some (s.scan.deckValue, true) →
    ∃ t, exec c s = .next t ∧ t.scan.lastStamp = s.position.belt ∧ t.scan.silence = .armed ∧
      t.scan.framing = .hunting ∧ t.scan.rejected = s.scan.rejected ∧
      watched t .silence (s.position.belt + bu s.settings.silenceDistance) ∧
      ∀ w ∈ t.watches, w.kind = .silence → w.pos = s.position.belt + bu s.settings.silenceDistance

/-- An accepted FRAME: the expected number follows it; where another number was expected, FRAME_GAP is raised and every
OPEN entry is marked suspect with the frame-gap flag, and only those (R13, R14, R47). -/
def Obligations.FrameNumbering : Prop :=
  ∀ (s : State) (number : Word), receives s → tagsDistinct s → linkAtRest s →
    ∃ t, exec (.frame s.scan.deckValue number) s = .next t ∧ t.scan.expected = some (number + 1) ∧
      (s.scan.expected = none ∨ s.scan.expected = some number →
        t.attention = s.attention ∧ t.tracker = s.tracker) ∧
      (∀ n, s.scan.expected = some n → n ≠ number →
        raises [.frameGap] s t ∧
        t.tracker.sheets = s.tracker.sheets.map fun e =>
          if e.isOpen then { e with flags := { e.flags with suspect := true, frameGap := true } } else e)

/-! ### Sheets -/

/-- In STREAMING, an OPEN with no conflict and room in the queue becomes the newest entry, with the fields of R35 and the
first free tag; a pending commit takes effect first, and its two positions are armed (R34, R35, R37). -/
def Obligations.OpenBecomesAnEntry : Prop :=
  ∀ (s : State) (first last : Lane) (offset : Byte), s.agent.mode = .streaming → s.scan.framing = .hunting →
    spanOk s first last = true → linkAtRest s → s.tracker.sheets.length < Config.sheetQueueMax →
    (∀ e ∈ s.tracker.sheets, e.isOpen = true → e.sharesLane first last = false) →
    ∃ t e, exec (.openSheet s.scan.deckValue first last offset) s = .next t ∧
      t.tracker.sheets = s.tracker.sheets ++ [e] ∧ t.tracker.blind = s.tracker.blind ∧
      e.tag ∉ tagsOf s ∧ t.tracker.tagCounter = e.tag + 1 ∧
      (∀ k : Nat, k < (e.tag - s.tracker.tagCounter).toNat → s.tracker.tagCounter + BitVec.ofNat 8 k ∈ tagsOf s) ∧
      t.settings = s.settings ∧
      isNew t e (s.position.belt - s.settings.scanLag.setWidth 32 - offset.setWidth 32) first last ∧
      commitTaken s t ∧ (s.tables.commitPending = false → t.attention = s.attention)

/-- An OPEN, in STREAMING or DRAINING, first force-closes every OPEN entry that shares a lane with it: suspect with the
span-conflict flag, trailing edge at the new leading edge but never before its own, decided SUSPECT; SPAN_CONFLICT is
raised (R36, R42). Then it is placed as an OPEN without a conflict is: as the newest entry, in STREAMING with room in the
queue, a pending commit taking effect first (R35, R37); otherwise as a blind open, which takes no tag and no commit (R38,
R51). -/
def Obligations.OpenClosesConflicts : Prop :=
  ∀ (s : State) (first last : Lane) (offset : Byte), receives s → spanOk s first last = true → tagsDistinct s →
    (∃ e ∈ s.tracker.sheets, e.isOpen = true ∧ e.sharesLane first last = true) →
    ∃ t, exec (.openSheet s.scan.deckValue first last offset) s = .next t ∧ flagSet t .spanConflict = true ∧
      (∀ e ∈ s.tracker.sheets, e.isOpen = true → e.sharesLane first last = true →
        ∃ x ∈ t.tracker.sheets, x.tag = e.tag ∧ x.state = .closed ∧ x.flags.suspect = true ∧
          x.flags.spanConflict = true ∧
          x.trailing = some (if before (placed s s.position.belt offset) e.leading then e.leading
            else placed s s.position.belt offset) ∧
          ∃ d, x.decision = some d ∧ d.source = .suspect ∧ d.grade = 13) ∧
      (s.agent.mode = .streaming → s.tracker.sheets.length < Config.sheetQueueMax →
        ∃ e, tagsOf t = tagsOf s ++ [e.tag] ∧ e ∈ t.tracker.sheets ∧ e.tag ∉ tagsOf s ∧
          t.tracker.tagCounter = e.tag + 1 ∧ t.tracker.blind = s.tracker.blind ∧ t.settings = s.settings ∧
          isNew t e (placed s s.position.belt offset) first last ∧ commitTaken s t) ∧
      (s.agent.mode = .draining ∨ Config.sheetQueueMax ≤ s.tracker.sheets.length →
        tagsOf t = tagsOf s ∧ t.tracker.tagCounter = s.tracker.tagCounter ∧
        t.tables.active = s.tables.active ∧ t.tables.commitPending = s.tables.commitPending ∧
        watched t .forcedSeal (placed s s.position.belt offset + bu s.settings.maxSheetLength) ∧
        (s.tracker.blind = none →
          t.tracker.blind =
            some ⟨placed s s.position.belt offset, none, 1, placed s s.position.belt offset, .unsealed⟩ ∧
          flagSet t .blind = true) ∧
        ∀ b, s.tracker.blind = some b →
          t.tracker.blind = some { b with
            outstanding := if b.outstanding < 255 then b.outstanding + 1 else b.outstanding
            latest := placed s s.position.belt offset, sealState := .unsealed } ∧
          (b.sealState = .sealed → flagSet t .blind = true))

/-- An OPEN without a conflict, in DRAINING or with the queue full, is a blind open: no entry, no tag, no commit; the
Blind Span is created or extended and its forced-seal position armed (R37, R38, R51, R139). -/
def Obligations.BlindOpenExtendsTheSpan : Prop :=
  ∀ (s : State) (first last : Lane) (offset : Byte), spanOk s first last = true → linkAtRest s →
    s.scan.framing = .hunting →
    (s.agent.mode = .draining ∨
      (s.agent.mode = .streaming ∧ Config.sheetQueueMax ≤ s.tracker.sheets.length)) →
    (∀ e ∈ s.tracker.sheets, e.isOpen = true → e.sharesLane first last = false) →
    ∃ t, exec (.openSheet s.scan.deckValue first last offset) s = .next t ∧
      t.tracker.sheets = s.tracker.sheets ∧ t.tracker.tagCounter = s.tracker.tagCounter ∧ t.tables = s.tables ∧
      watched t .forcedSeal (placed s s.position.belt offset + bu s.settings.maxSheetLength) ∧
      (s.tracker.blind = none →
        t.tracker.blind = some ⟨placed s s.position.belt offset, none, 1, placed s s.position.belt offset, .unsealed⟩ ∧
        raises [.blind] s t ∧
        t.interval = ⟨.waiting, placed s s.position.belt offset + bu s.settings.divertDistance, none⟩ ∧
        watched t .intervalOpening (placed s s.position.belt offset + bu s.settings.divertDistance)) ∧
      (∀ b, s.tracker.blind = some b →
        t.tracker.blind = some { b with
          outstanding := if b.outstanding < 255 then b.outstanding + 1 else b.outstanding
          latest := placed s s.position.belt offset, sealState := .unsealed } ∧
        (b.sealState = .sealed → raises [.blind] s t ∧ unwatched t .clearing ∧ unwatched t .intervalClosing ∧
          t.interval.closing = none ∧
          t.interval.phase = (if s.interval.phase = .ended then .opened else s.interval.phase)) ∧
        (b.sealState = .unsealed → t.attention = s.attention ∧ t.interval = s.interval))

/-- A FEATURE or MOIST whose lane no OPEN entry covers, and a CLOSE whose first lane no OPEN entry has: with blind sheets
outstanding a FEATURE or MOIST is discarded silently; without, ORPHAN is raised; no entry and no Blind Span changes (R39,
R41). A record is attributed to an OPEN entry whose span contains its lane, and to none only where there is none (R39). -/
def Obligations.UnattributedRecords : Prop :=
  (∀ (s : State) (lane : Lane),
    (∀ e, attributedTo lane s = some e →
      e ∈ s.tracker.sheets ∧ e.state = .opened ∧ e.first.toNat ≤ lane.toNat ∧ lane.toNat ≤ e.last.toNat) ∧
    (attributedTo lane s = none ↔
      ∀ e ∈ s.tracker.sheets, ¬ (e.state = .opened ∧ e.first.toNat ≤ lane.toNat ∧ lane.toNat ≤ e.last.toNat))) ∧
  ∀ (s : State) (lane first last : Lane) (kind : BitVec 5) (along across raw temperature : Word) (offset : Byte),
    receives s → linkAtRest s →
    ((attributedTo lane s = none → featureOk s lane along across = true →
      ∃ t, exec (.feature s.scan.deckValue lane kind along across offset) s = .next t ∧ t.tracker = s.tracker ∧
        (blindOutstanding s = true → t.attention = s.attention) ∧
        (blindOutstanding s = false → raises [.orphan] s t)) ∧
    (attributedTo lane s = none → moistOk s lane temperature = true →
      ∃ t, exec (.moist s.scan.deckValue lane raw temperature) s = .next t ∧ t.tracker = s.tracker ∧
        (blindOutstanding s = true → t.attention = s.attention) ∧
        (blindOutstanding s = false → raises [.orphan] s t)) ∧
    ((∀ e ∈ s.tracker.sheets, e.isOpen = true → e.first ≠ first) → spanOk s first last = true →
      blindOutstanding s = false →
      ∃ t, exec (.closeSheet s.scan.deckValue first last offset) s = .next t ∧ t.tracker = s.tracker ∧
        raises [.orphan] s t))

/-- A FEATURE attributed to an OPEN entry that lies in the edge zone, or anywhere when the Edge Zone Distance is 0, is
tallied at once by the Class Table entry of its kind, band and zone in the bound bank: class count, largest size and
area, or none for IGNORE; the total; and FATAL when the entry is marked so and the sheet undecided, with the positions
that this decision arms (R59, R62, R63, R68 to R71, R130, R149). A feature lies at stamp − Scan Lag − offset (R39). It is in
the edge zone when its lane is the first or last of the entry or it lies before leading edge + Edge Zone Distance (R62). The
index of the Class Table entry is kind × 8 + band × 2 + zone, 0 for core and 1 for edge (R68). -/
def Obligations.FeatureIsTallied : Prop :=
  (∀ (s : State) (stamp : Position) (offset : Byte),
    placed s stamp offset = stamp - s.settings.scanLag.setWidth 32 - offset.setWidth 32) ∧
  (∀ (b : Bank) (e : Entry) (lane : Lane) (pos : Position), arrivesAtEdge b e lane pos = true ↔
    lane = e.first ∨ lane = e.last ∨
      (0 < (e.leading + b.edgeZone.setWidth 32 - pos).toNat ∧
        (e.leading + b.edgeZone.setWidth 32 - pos).toNat < 2 ^ 31)) ∧
  (∀ (b : Bank) (kind : BitVec 5) (band : Fin 4), ∃ core edge : Fin 256,
    core.val = kind.toNat * 8 + band.val * 2 ∧ edge.val = kind.toNat * 8 + band.val * 2 + 1 ∧
    b.classOf kind band .core = b.classTable.get core ∧ b.classOf kind band .edge = b.classTable.get edge) ∧
  ∀ (s : State) (e : Entry) (lane : Lane) (kind : BitVec 5) (along across : Word) (offset : Byte), receives s →
    tagsDistinct s → featureOk s lane along across = true → attributedTo lane s = some e →
    (arrivesAtEdge (s.tables.bank e.bank) e lane (placed s s.position.belt offset) = true ∨
      (s.tables.bank e.bank).edgeZone = 0) →
    ∃ t x c, exec (.feature s.scan.deckValue lane kind along across offset) s = .next t ∧
      findEntry e.tag t = some x ∧
      c = (s.tables.bank e.bank).classOf kind
        (sizeBand (s.tables.bank e.bank).bandLimits (max along.toNat across.toNat))
        (if arrivesAtEdge (s.tables.bank e.bank) e lane (placed s s.position.belt offset) then .edge else .core) ∧
      (∀ k : Fin 12, x.tally.get k =
        if c.cls = some k then
          ⟨if (e.tally.get k).count < 255 then (e.tally.get k).count + 1 else (e.tally.get k).count,
           max (e.tally.get k).largest (max along.toNat across.toNat),
           min ((e.tally.get k).area + along.toNat * across.toNat / 100) 65535⟩
        else e.tally.get k) ∧
      x.total = (if e.total < 65535 then e.total + 1 else e.total) ∧ x.held = e.held ∧ x.moisture = e.moisture ∧
      x.state = .opened ∧
      (c.fatal = true → e.decision = none →
        x.flags.fatal = true ∧ ∃ d, x.decision = some d ∧ d = (decisionBank s e).decide .fatal ∧ d.source = .fatal ∧
          d.grade = 12 ∧ d.gate = ((decisionBank s e).outcomes.get 0).gate ∧ armsPositions s t e d.gate) ∧
      (c.fatal = false ∨ e.decision.isSome = true → x.decision = e.decision ∧ x.flags = e.flags) ∧
      t.attention = s.attention ∧ t.tables = s.tables ∧ othersStay e.tag s t

/-- A FEATURE outside the edge zone, with an Edge Zone Distance above 0, joins the tail of the Edge Hold List with its
release position armed. On a list of 6 the oldest item is given up first: its release position is cancelled, it is tallied
as core from the bound bank, and a fatal mark decides an undecided sheet FATAL (R63 to R65, R68, R69, R71). -/
def Obligations.FeatureIsHeld : Prop :=
  ∀ (s : State) (e : Entry) (lane : Lane) (kind : BitVec 5) (along across : Word) (offset : Byte), receives s →
    tagsDistinct s → featureOk s lane along across = true → attributedTo lane s = some e →
    arrivesAtEdge (s.tables.bank e.bank) e lane (placed s s.position.belt offset) = false →
    (s.tables.bank e.bank).edgeZone ≠ 0 →
    ∃ t x h, exec (.feature s.scan.deckValue lane kind along across offset) s = .next t ∧
      findEntry e.tag t = some x ∧
      h = ⟨kind, sizeBand (s.tables.bank e.bank).bandLimits (max along.toNat across.toNat), along, across,
        placed s s.position.belt offset + bu (s.tables.bank e.bank).edgeZone⟩ ∧
      watched t (.release e.tag) h.releasePos ∧ othersStay e.tag s t ∧ x.state = .opened ∧
      (releasesKept e s → releasesKept x t) ∧
      (e.held.length < Config.edgeHoldMax →
        x.held = e.held ++ [h] ∧ x.total = e.total ∧ x.tally = e.tally ∧ x.decision = e.decision ∧ x.flags = e.flags) ∧
      ∀ oldest rest, e.held = oldest :: rest → e.held.length = Config.edgeHoldMax →
        x.held = rest ++ [h] ∧ x.total = totalAfter e.total ∧
        (∀ k, x.tally.get k = tallyAfter (s.tables.bank e.bank) .core k (e.tally.get k) oldest) ∧
        (anyFatal (s.tables.bank e.bank) .core [oldest] = true → e.decision = none →
          x.decision = some ((decisionBank s e).decide .fatal) ∧ x.flags = { e.flags with fatal := true }) ∧
        (anyFatal (s.tables.bank e.bank) .core [oldest] = false ∨ e.decision.isSome = true →
          x.decision = e.decision ∧ x.flags = e.flags)

/-- A MOIST attributed to an OPEN entry is corrected by its own lane and its temperature from the bound bank, and
summarised: count and sum until the count is 65535, the maximum, and the wet count when above the Wet Limit (R79, R80,
R83). -/
def Obligations.MoistIsSummarised : Prop :=
  ∀ (s : State) (e : Entry) (lane : Lane) (raw temperature : Word), receives s → tagsDistinct s →
    moistOk s lane temperature = true → attributedTo lane s = some e →
    ∃ t v, exec (.moist s.scan.deckValue lane raw temperature) s = .next t ∧
      v = (s.tables.bank e.bank).corrected lane raw.toNat temperature.toNat ∧
      entryBecomes e.tag (fun x => { x with moisture := {
        count := if x.moisture.count < 65535 then x.moisture.count + 1 else x.moisture.count
        sum := if x.moisture.count < 65535 then x.moisture.sum + v else x.moisture.sum
        maximum := some (match x.moisture.maximum with | none => v | some m => max m v)
        wet := if (s.tables.bank e.bank).wetLimit.toNat < v ∧ x.moisture.wet < 65535 then x.moisture.wet + 1
          else x.moisture.wet } }) s t ∧
      t.attention = s.attention

/-- The correction of a raw reading on knots that rise strictly: clamped at both ends, exact at a knot, and between two
knots the linear value rounded down, which lies between the two knot values (R81). The size of a feature, its area rounded
down, and the size band on limits that rise strictly: a size equal to a limit belongs to the band above it (R60, R61); the
mean of a summary (R84). The corrected value of a sample by the rows of Table 5-3, tested from the top: the value of one
Option Block curve, or two neighbouring curves blended by the temperature and rounded down once (R82). -/
def Obligations.MeasuresOfSamplesAndFeatures : Prop :=
  (∀ (b : Bank) (curve : Fin 3) (lane : Lane) (r : Nat), (∀ i < 7, b.knot i < b.knot (i + 1)) →
    (r ≤ b.knot 0 → b.curveValue curve lane r = b.knotValue curve lane 0) ∧
    (b.knot 7 ≤ r → b.curveValue curve lane r = b.knotValue curve lane 7) ∧
    ∀ i < 7, b.knot i ≤ r → r < b.knot (i + 1) →
      ((b.curveValue curve lane r : Nat) : Int) =
        (b.knotValue curve lane i : Int) +
          ((b.knotValue curve lane (i + 1) : Int) - (b.knotValue curve lane i : Int)) * ((r : Int) - (b.knot i : Int)) /
            ((b.knot (i + 1) : Int) - (b.knot i : Int)) ∧
      min (b.knotValue curve lane i) (b.knotValue curve lane (i + 1)) ≤ b.curveValue curve lane r ∧
      b.curveValue curve lane r ≤ max (b.knotValue curve lane i) (b.knotValue curve lane (i + 1)) ∧
      (r = b.knot i → b.curveValue curve lane r = b.knotValue curve lane i)) ∧
  (∀ along across : Word, featureSize along across = max along.toNat across.toNat) ∧
  (∀ along across : Word,
    100 * featureArea along across ≤ along.toNat * across.toNat ∧
    along.toNat * across.toNat < 100 * (featureArea along across + 1)) ∧
  (∀ (limits : Vector Word 3) (size : Nat), (limits.get 0).toNat < (limits.get 1).toNat →
    (limits.get 1).toNat < (limits.get 2).toNat →
    (sizeBand limits size = 0 ↔ size < (limits.get 0).toNat) ∧
    (sizeBand limits size = 1 ↔ (limits.get 0).toNat ≤ size ∧ size < (limits.get 1).toNat) ∧
    (sizeBand limits size = 2 ↔ (limits.get 1).toNat ≤ size ∧ size < (limits.get 2).toNat) ∧
    (sizeBand limits size = 3 ↔ (limits.get 2).toNat ≤ size)) ∧
  (∀ m : MoistureSummary, (m.count = 0 → m.mean = none) ∧ (0 < m.count → m.mean = some (m.sum / m.count))) ∧
  ∀ (b : Bank) (lane : Lane) (r t t1 t2 t3 t4 : Nat) (v : Fin 3 → Int),
    t1 = (b.thresholds.get 0).toNat → t2 = (b.thresholds.get 1).toNat → t3 = (b.thresholds.get 2).toNat →
    t4 = (b.thresholds.get 3).toNat → (∀ c, v c = (b.curveValue c lane r : Nat)) →
    (t ≤ t1 → (b.corrected lane r t : Int) = v 0) ∧
    (t1 < t → t < t2 →
      (b.corrected lane r t : Int) = v 0 + (v 1 - v 0) * ((t : Int) - t1) / ((t2 : Int) - t1) ∧
      min (v 0) (v 1) ≤ b.corrected lane r t ∧ (b.corrected lane r t : Int) ≤ max (v 0) (v 1)) ∧
    (t1 < t → t2 ≤ t → t ≤ t3 → (b.corrected lane r t : Int) = v 1) ∧
    (t1 < t → t2 ≤ t → t3 < t → t < t4 →
      (b.corrected lane r t : Int) = v 1 + (v 2 - v 1) * ((t : Int) - t3) / ((t4 : Int) - t3) ∧
      min (v 1) (v 2) ≤ b.corrected lane r t ∧ (b.corrected lane r t : Int) ≤ max (v 1) (v 2)) ∧
    (t1 < t → t2 ≤ t → t3 < t → t4 ≤ t → (b.corrected lane r t : Int) = v 2)

/-- A CLOSE that matches an OPEN entry by its first lane closes it (R40, R42): the trailing edge, never before the leading
edge; the overlength position cancelled and the retirement position armed; the Edge Hold List emptied, each feature tallied
as edge and its release position cancelled (R67). A sheet suspect by then, by another last lane or by a trailing edge
before its leading edge too, is decided SUSPECT, with the fatal flag if a feature held was fatal (R73); one decided before,
or decided FATAL by a feature held, is not listed; any other joins the Grading List. A decision arms its positions (R130,
R149). That the suspect mark of a trailing edge before the leading edge decides only once the list is empty is log 27. -/
def Obligations.CloseEndsTheSheet : Prop :=
  ∀ (s : State) (e : Entry) (last : Lane) (offset : Byte), receives s → tagsDistinct s →
    s.tracker.sheets.find? (fun x => x.isOpen && x.first = e.first) = some e → spanOk s e.first last = true →
    e.evalStatus = .none → e.tag ∉ s.evaluator.list →
    ∃ t x trailing suspect fatal, exec (.closeSheet s.scan.deckValue e.first last offset) s = .next t ∧
      findEntry e.tag t = some x ∧
      trailing = (if before (placed s s.position.belt offset) e.leading then e.leading
        else placed s s.position.belt offset) ∧
      suspect = (decide (last ≠ e.last) || e.flags.suspect || before (placed s s.position.belt offset) e.leading) ∧
      fatal = (e.decision.isNone && anyFatal (s.tables.bank e.bank) .edge e.held) ∧
      x.state = .closed ∧ x.trailing = some trailing ∧ x.last = e.last ∧ x.held = [] ∧
      (∀ k, x.tally.get k = e.held.foldl (tallyAfter (s.tables.bank e.bank) .edge k) (e.tally.get k)) ∧
      x.total = e.held.foldl (fun n _ => totalAfter n) e.total ∧
      (releasesKept e s → unwatched t (.release e.tag)) ∧
      watched t (.retirement e.tag) (trailing + bu s.settings.retireDistance) ∧ unwatched t (.overlength e.tag) ∧
      (s.evaluator.inFlight.isSome = true ∨ s.evaluator.list = [] → linkAtRest s → othersStay e.tag s t) ∧
      (suspect = true →
        x.flags.suspect = true ∧ x.flags.fatal = (e.flags.fatal || fatal) ∧ x.holding = false ∧
        x.decision = some ((decisionBank s e).decide .suspect) ∧ t.evaluator.list = s.evaluator.list ∧
        armsPositions s t e ((decisionBank s e).decide .suspect).gate) ∧
      (suspect = false → fatal = true →
        x.flags = { e.flags with fatal := true } ∧ x.holding = false ∧
        x.decision = some ((decisionBank s e).decide .fatal) ∧ t.evaluator.list = s.evaluator.list ∧
        armsPositions s t e ((decisionBank s e).decide .fatal).gate) ∧
      (suspect = false → e.decision.isSome = true →
        x.flags = e.flags ∧ x.holding = false ∧ x.decision = e.decision ∧ t.evaluator.list = s.evaluator.list) ∧
      (suspect = false → fatal = false → e.decision = none →
        x.flags = e.flags ∧ x.decision = none ∧ t.evaluator.list = s.evaluator.list ++ [e.tag] ∧
        x.evalStatus = (if s.evaluator.inFlight = none ∧ s.evaluator.list = [] then .inEvaluation else .listed))

/-- A CLOSE that matches no OPEN entry while blind sheets are outstanding is a blind close: the count falls by one, the
end moves to the later trailing edge, and at 0 the span is SEALED with its clearing and the interval's closing armed
(R41, R52, R140). -/
def Obligations.BlindCloseSealsAtZero : Prop :=
  ∀ (s : State) (b : BlindSpan) (first last : Lane) (offset : Byte), receives s → spanOk s first last = true →
    (∀ e ∈ s.tracker.sheets, e.isOpen = true → e.first ≠ first) → s.tracker.blind = some b → 0 < b.outstanding →
    ∃ t stop, exec (.closeSheet s.scan.deckValue first last offset) s = .next t ∧
      stop = (match b.stop with
        | none => placed s s.position.belt offset
        | some x => if before x (placed s s.position.belt offset) then placed s s.position.belt offset else x) ∧
      t.tracker.sheets = s.tracker.sheets ∧ t.attention = s.attention ∧
      (1 < b.outstanding →
        t.tracker.blind = some { b with outstanding := b.outstanding - 1, stop := some stop } ∧
        t.interval = s.interval) ∧
      (b.outstanding = 1 →
        t.tracker.blind = some { b with outstanding := 0, stop := some stop, sealState := .sealed } ∧
        unwatched t .forcedSeal ∧ watched t .clearing (stop + bu s.settings.divertDistance) ∧
        watched t .intervalClosing (stop + bu s.settings.divertDistance))

/-! ### Positions of the belt -/

/-- A position is reached at the first advance after which (belt − P) mod 2^32 is below 2^31, and not at its arming: after
the pulse of an advance, in either Pulse Mode, exactly those positions are due, and a position armed is due at once only
when its own watcher arms it while taking one (R26, R28); one armed behind the belt is marked so (R132). Of those due, a watcher takes the one furthest behind the
counter, and of equal ones the first armed (R27). Whether an advance takes its positions within the pulse's step, as if
each had been taken by a command of its own with the belt where it is, or leaves them to such commands is the model's
choice (log 6); so are that a command of any other position changes nothing, that positions not yet taken are taken before
the next advance (log 5), the bound on the takings of one step, and the free choice between watchers (log 7). -/
def Obligations.AdvancesReachPositionsInOrder : Prop :=
  (∀ (s : State), s.agent.mode ≠ .loading → s.position.debt = 0 → (∀ w ∈ s.watches, w.due = false) →
    (s.settings.pulseMode = .divide → s.settings.pulseRatio.toNat ≤ s.position.residue + 1) →
    ∃ u, exec (.forwardPulse false) s = .next u ∧
      u.position = (match s.settings.pulseMode with
        | .divide => { s.position with belt := s.position.belt + 1, residue := 0 }
        | .multiply => { s.position with belt := s.position.belt + s.settings.pulseRatio.setWidth 32 }) ∧
      (u.watches = s.watches.map fun w => { w with due := decide ((u.position.belt - w.pos).toNat < 2 ^ 31) }) ∧
      ∃ t n, exec (.forwardPulse true) s = .next t ∧ takings n u t ∧
        (n < 16 * (u.watches.length + 1) → ∀ w, nextDue t w = none)) ∧
  (∀ (c : Ctx) (kind : WatchKind) (p : Position) (s : State),
    ∃ w, (arm c kind p s).watches = s.watches ++ [w] ∧ w.kind = kind ∧ w.pos = p ∧
      (w.due = true ↔ c.watcher = some kind.watcher ∧ (s.position.belt - p).toNat < 2 ^ 31) ∧
      (w.passed = true ↔ p ≠ s.position.belt ∧ (s.position.belt - p).toNat < 2 ^ 31)) ∧
  (∀ (c : Instr) (s : State) (kind : WatchKind), position c = some kind → (∀ w, ¬ comesDue s kind w) →
    exec c s = .next s) ∧
  ∀ (s : State) (watcher : Watcher),
    (∀ w, nextDue s watcher = some w →
      w.due = true ∧ w.kind.watcher = watcher ∧
      ∃ l r, s.watches = l ++ w :: r ∧
        (∀ x ∈ l, x.due = true → x.kind.watcher = watcher →
          (s.position.belt - x.pos).toNat < (s.position.belt - w.pos).toNat) ∧
        (∀ x ∈ r, x.due = true → x.kind.watcher = watcher →
          (s.position.belt - x.pos).toNat ≤ (s.position.belt - w.pos).toNat)) ∧
    (nextDue s watcher = none → ∀ x ∈ s.watches, x.kind.watcher = watcher → x.due = false)

/-- The silence position, reached while the watch is ARMED in STREAMING or DRAINING: the watch is FIRED, SCAN_SILENT set,
and every OPEN entry suspect with the silent flag and closed at the silence position − Scan Lag (R16, R44). -/
def Obligations.SilenceClosesOpenSheets : Prop :=
  ∀ (s : State) (w : Watch), tracks s → tagsDistinct s → comesDue s .silence w → s.scan.silence = .armed →
    ∃ t, exec .silencePosition s = .next t ∧ t.scan.silence = .fired ∧ t.scan.lastStamp = s.scan.lastStamp ∧
      flagSet t .scanSilent = true ∧ t.tracker.blind = s.tracker.blind ∧
      ∀ e ∈ s.tracker.sheets, e.isOpen = true →
        ∃ x ∈ t.tracker.sheets, x.tag = e.tag ∧ x.state = .closed ∧ x.flags.suspect = true ∧ x.flags.silent = true ∧
          x.trailing = some (if before (w.pos - bu s.settings.scanLag) e.leading then e.leading
            else w.pos - bu s.settings.scanLag)

/-- The overlength position of an OPEN entry: suspect with the overlength flag, OVERLENGTH raised, closed at leading edge +
Max Sheet Length and decided SUSPECT (R43, R42). -/
def Obligations.OverlengthClosesTheSheet : Prop :=
  ∀ (s : State) (w : Watch) (e : Entry), tagsDistinct s → comesDue s (.overlength e.tag) w →
    findEntry e.tag s = some e → e.isOpen = true →
    ∃ t x, exec (.overlength e.tag) s = .next t ∧ findEntry e.tag t = some x ∧ x.state = .closed ∧
      x.flags.suspect = true ∧ x.flags.overlength = true ∧
      x.trailing = some (e.leading + bu s.settings.maxSheetLength) ∧ x.held = [] ∧
      (∃ d, x.decision = some d ∧ d.source = .suspect ∧ d.grade = 13) ∧ flagSet t .overlength = true ∧
      (linkAtRest s → othersStay e.tag s t) ∧
      watched t (.retirement e.tag) (e.leading + bu s.settings.maxSheetLength + bu s.settings.retireDistance)

/-- The decision point: an undecided entry is decided LATE from the Outcome Table, with the positions that this decision
arms, and leaves the Grading List, and LATE is raised; a decided one stays as it is (R46, R45, R130, R149). -/
def Obligations.DecisionPointMakesLate : Prop :=
  ∀ (s : State) (w : Watch) (e : Entry), tagsDistinct s → linkAtRest s → comesDue s (.decision e.tag) w →
    findEntry e.tag s = some e →
    (e.decision.isSome = true → exec (.decisionPoint e.tag) s = .next (dropWatch w s)) ∧
    (e.decision = none →
      ∃ t x d, exec (.decisionPoint e.tag) s = .next t ∧ findEntry e.tag t = some x ∧ x.decision = some d ∧
        d = (decisionBank s e).decide .late ∧ d.source = .late ∧ d.grade = 14 ∧ d.gate = ((decisionBank s e).outcomes.get 2).gate ∧ x.flags.late = true ∧
        armsPositions s t e d.gate ∧
        x.evalStatus = (if e.evalStatus = .listed then .none else e.evalStatus) ∧ x.route = e.route ∧
        e.tag ∉ t.evaluator.list ∧ t.evaluator.inFlight = s.evaluator.inFlight ∧ flagSet t .late = true ∧
        othersStay e.tag s t)

/-- Retirement of a CLOSED, decided entry: removed from the queue with every position of its own, its final grade counted,
its REPORT, with the fields of Table 8-2, offered when Report Enable is on (R50, R142, R143, R180). A waiting ROUTE record of it is withdrawn, and an unsent
route raises DIVERTED (R141); a stamp of it ends (R155); an evaluation of it is abandoned and the next entry of the Grading
List is taken (R93, R105); a pending commit takes effect when the queue empties (R119). In DRAINING with nothing left the
drain-end notice ends DRAINING; whether it is taken within the retirement or after it, so that a Mode request can come
first (R168, R170), is a free value (log 28: the model's choice). -/
def Obligations.RetirementReportsAndCounts : Prop :=
  ∀ (s : State) (w : Watch) (e : Entry) (d : Decision), tagsDistinct s →
    comesDue s (.retirement e.tag) w → findEntry e.tag s = some e → e.isOpen = false → e.decision = some d →
    ∃ t, exec (.retirement e.tag) s = .next t ∧ tagsOf t = (tagsOf s).filter (fun x => x ≠ e.tag) ∧
      (∀ g : Fin 16, t.attention.grades.get g =
        if g = d.grade then s.attention.grades.get g + 1 else s.attention.grades.get g) ∧
      (∀ x ∈ t.watches, x.kind.tag ≠ some e.tag) ∧
      (s.settings.reportEnable = true → roomForOffered s = true → ∃ r, reportIs e d r ∧ onLink (.report r) t) ∧
      (s.agent.mode = .draining → s.tracker.blind = none → tagsOf s = [e.tag] →
        t.agent.mode = (if Config.freeNotice s.draws then .standby else .draining) ∧
        flagSet t .drained = (flagSet s .drained || Config.freeNotice s.draws)) ∧
      (s.agent.mode ≠ .draining ∨ s.tracker.blind.isSome = true ∨ tagsOf s ≠ [e.tag] →
        t.agent.mode = s.agent.mode ∧ flagSet t .drained = flagSet s .drained) ∧
      (e.route = .placed ∨ (e.route = .pending ∧ e.flags.diverted = false) → flagSet t .diverted = true) ∧
      (¬ (e.route = .placed ∨ (e.route = .pending ∧ e.flags.diverted = false)) →
        flagSet t .diverted = flagSet s .diverted) ∧
      (linkAtRest s → e.route = .placed →
        (∃ added, t.link.queue = (s.link.queue.filter fun r => !r.isRouteOf e.tag) ++ added) ∧
        ∀ gate grade leading, onLink (.route e.tag gate grade leading) t →
          s.link.sending = some (.route e.tag gate grade leading)) ∧
      (∀ p, s.marker = some p → t.marker = if p.tag = e.tag then none else some p) ∧
      t.evaluator.list = s.evaluator.list.filter (fun x => x ≠ e.tag) ∧
      (∀ f, s.evaluator.inFlight = some f → f.tag ≠ e.tag → t.evaluator.inFlight = some f) ∧
      (∀ f, s.evaluator.inFlight = some f → f.tag = e.tag →
        (t.evaluator.list = [] → t.evaluator.inFlight = none) ∧
        ∀ next rest y, t.evaluator.list = next :: rest → findEntry next s = some y →
          t.evaluator.inFlight = some ⟨next, y.bank⟩ ∧
          ∃ z, findEntry next t = some z ∧ z.evalStatus = .inEvaluation) ∧
      (tagsOf s = [e.tag] → commitTaken s t) ∧
      (tagsOf s ≠ [e.tag] →
        t.tables.active = s.tables.active ∧ t.tables.generation = s.tables.generation ∧
        t.tables.commitPending = s.tables.commitPending)

/-- The forced-seal position of an UNSEALED Blind Span seals it with count 0, and its clearing position makes a SEALED one
absent, ends its interval, and ends DRAINING when the queue is empty and the drain-end notice is taken with it (R53, R54;
whether it is, or a Mode request can come first, is a free value: R170, log 28, the model's choice). -/
def Obligations.BlindSpanIsSealedAndCleared : Prop :=
  ∀ (s : State) (w : Watch) (b : BlindSpan), s.tracker.blind = some b →
    (comesDue s .forcedSeal w → b.sealState = .unsealed →
      ∃ t stop, exec .forcedSeal s = .next t ∧
        stop = (match b.stop with | none => w.pos | some x => if before x w.pos then w.pos else x) ∧
        t.tracker.blind = some { b with outstanding := 0, stop := some stop, sealState := .sealed } ∧
        watched t .clearing (stop + bu s.settings.divertDistance) ∧
        watched t .intervalClosing (stop + bu s.settings.divertDistance)) ∧
    (comesDue s .clearing w → b.sealState = .sealed →
      ∃ t, exec .clearing s = .next t ∧ t.tracker.blind = none ∧ t.interval.phase = .ended ∧
        t.tracker.tagCounter = s.tracker.tagCounter ∧
        (s.agent.mode = .draining → s.tracker.sheets = [] →
          t.agent.mode = (if Config.freeNotice s.draws then .standby else .draining) ∧
          flagSet t .drained = (flagSet s .drained || Config.freeNotice s.draws)) ∧
        (s.agent.mode ≠ .draining ∨ s.tracker.sheets ≠ [] →
          t.agent.mode = s.agent.mode ∧ t.attention = s.attention))

/-- The release position of a held feature takes it off the list, the others keeping their order, and tallies it as core
(R66, R68). Which of several features held with one release position it takes, the oldest (`takeHeld`), is the model's
choice (log 18). -/
def Obligations.ReleaseTalliesAsCore : Prop :=
  ∀ (s : State) (w : Watch) (e : Entry) (h : HeldFeature) (rest : List HeldFeature), tagsDistinct s →
    comesDue s (.release e.tag) w → findEntry e.tag s = some e → takeHeld w.pos e.held = some (h, rest) →
    ∃ t x c, exec (.releasePosition e.tag) s = .next t ∧ findEntry e.tag t = some x ∧ x.held = rest ∧
      c = (s.tables.bank e.bank).classOf h.kind h.band .core ∧
      (∀ k : Fin 12, x.tally.get k =
        if c.cls = some k then
          ⟨if (e.tally.get k).count < 255 then (e.tally.get k).count + 1 else (e.tally.get k).count,
           max (e.tally.get k).largest (max h.along.toNat h.across.toNat),
           min ((e.tally.get k).area + h.along.toNat * h.across.toNat / 100) 65535⟩
        else e.tally.get k) ∧
      x.total = (if e.total < 65535 then e.total + 1 else e.total) ∧ x.state = e.state ∧
      (c.fatal = true → e.decision = none → ∃ d, x.decision = some d ∧ d.source = .fatal) ∧
      (releasesKept e s → releasesKept x t) ∧
      (c.fatal = false → x.decision = e.decision) ∧ othersStay e.tag s t

/-- The fire point of a decided entry whose route is PENDING: with room its ROUTE record is placed with the gate, grade and
leading edge as they stand, and the entry is PLACED, or SENT when sending begins at once; with the queue full it is
diverted (R131, R134, R137). The stale expiry of a PLACED one is due in the same advance where the belt has reached it
(R28), unless fire point at its arming and stale expiry now lie behind the belt: it is then reached at the next advance
(R132; that this rule goes before R28 there is log 17, the model's reading). That the window of an entry without a trailing edge closes by its leading edge is log 29 (the
model's choice). -/
def Obligations.FirePointPlacesOrDiverts : Prop :=
  ∀ (s : State) (w : Watch) (e : Entry) (d : Decision), linkAtRest s → comesDue s (.fire e.tag) w →
    findEntry e.tag s = some e → e.decision = some d → e.route = .pending → e.flags.diverted = false →
    ∃ t, exec (.firePoint e.tag) s = .next t ∧
      (s.link.queue.length < Config.outputQueueMax →
        onLink (.route e.tag d.gate d.grade e.leading) t ∧ t.attention = s.attention ∧
        (s.pins.ready = true ∧ s.link.sending = none →
          entryBecomes e.tag (fun x => { x with route := .sent }) s t ∧ unwatched t (.stale e.tag)) ∧
        (¬ (s.pins.ready = true ∧ s.link.sending = none) →
          entryBecomes e.tag (fun x => { x with route := .placed }) s t ∧
          t.link.queue = s.link.queue ++ [.route e.tag d.gate d.grade e.leading] ∧
          ∃ x, t.watches = (dropWatch w s).watches ++ [x] ∧ x.kind = .stale e.tag ∧
            x.pos = w.pos + bu s.settings.staleDistance ∧
            (x.due = true ↔ (s.position.belt - x.pos).toNat < 2 ^ 31 ∧ (w.passed = false ∨ x.pos = s.position.belt)))) ∧
      (Config.outputQueueMax ≤ s.link.queue.length →
        entryBecomes e.tag (fun x => { x with flags := { x.flags with diverted := true }, window := some .waiting }) s t ∧
        raises [.diverted] s t ∧
        watched t (.windowOpening e.tag) (e.leading + bu s.settings.divertDistance) ∧
        watched t (.windowClosing e.tag) (e.trailing.getD e.leading + bu s.settings.divertDistance))

/-- The stale expiry of a PLACED entry: its ROUTE record leaves the Output Queue, the others keeping their order, the route
is WITHDRAWN, and the entry is diverted (R135, R137). That the window of an entry without a trailing edge closes by its
leading edge is log 29 (the model's choice). -/
def Obligations.StaleExpiryWithdraws : Prop :=
  ∀ (s : State) (w : Watch) (e : Entry), linkAtRest s → comesDue s (.stale e.tag) w → findEntry e.tag s = some e →
    e.route = .placed →
    ∃ t, exec (.staleExpiry e.tag) s = .next t ∧
      entryBecomes e.tag (fun x =>
        { x with route := .withdrawn, flags := { x.flags with diverted := true }, window := some .waiting }) s t ∧
      (∀ gate grade leading, ¬ onLink (.route e.tag gate grade leading) t ∨
        s.link.sending = some (.route e.tag gate grade leading)) ∧
      (∃ alerts, t.link.queue = (s.link.queue.filter fun r => !r.isRouteOf e.tag) ++ alerts ∧
        ∀ r ∈ alerts, r = .alert .diverted w.pos) ∧
      raises [.diverted] s t ∧
      watched t (.windowOpening e.tag) (e.leading + bu s.settings.divertDistance) ∧
      watched t (.windowClosing e.tag) (e.trailing.getD e.leading + bu s.settings.divertDistance)

/-- The edges of a divert window and of the Blind Span divert interval open and close them, and DIVERT, without a line
test, is asserted exactly while one of them is open (R137 to R140). -/
def Obligations.DivertFollowsWindowsAndInterval : Prop :=
  (∀ (s : State) (w : Watch) (tag : Tag), comesDue s (.windowOpening tag) w →
    ∃ t, exec (.divertWindowOpening tag) s = .next t ∧
      entryBecomes tag (fun e => if e.window = some .waiting then { e with window := some .opened } else e) s t) ∧
  (∀ (s : State) (w : Watch) (tag : Tag), comesDue s (.windowClosing tag) w →
    ∃ t, exec (.divertWindowClosing tag) s = .next t ∧ entryBecomes tag (fun e => { e with window := none }) s t) ∧
  (∀ (s : State) (w : Watch), comesDue s .intervalOpening w → s.interval.phase = .waiting →
    ∃ t, exec .blindIntervalOpening s = .next t ∧ t.interval = { s.interval with phase := .opened } ∧
      t.tracker = s.tracker) ∧
  (∀ (s : State) (w : Watch), comesDue s .intervalClosing w →
    ∃ t, exec .blindIntervalClosing s = .next t ∧ t.interval.phase = .ended ∧ t.tracker = s.tracker) ∧
  (∀ s : State, s.agent.lineTest = none →
    (divertAsserted s = true ↔
      (∃ e ∈ s.tracker.sheets, e.window = some .opened) ∨ s.interval.phase = .opened)) ∧
  ∀ (s : State) (l : LineTest), s.agent.lineTest = some l → divertAsserted s = l.divert ∧ nozzleLines s = l.nozzles

/-- Sending begins with the record at the head when READY is high and the link idle, its entry SENT if it is a ROUTE
record, at a rise of READY and at a completion alike; READY low, a record in sending or an empty queue begins nothing
(R134). That BEGIN_SENDING as a command of its own changes nothing where its condition does not stand (log 12), that the
completion carries the level of READY (log 10), and that a completion with no record in sending changes nothing (log 13),
are the model's choice. -/
def Obligations.SendingTakesTheHead : Prop :=
  (∀ (s : State) (r : OutRecord) (rest : List OutRecord), s.link = ⟨r :: rest, none⟩ →
    (∃ t, exec .readyRise s = .next t ∧ t.link = ⟨rest, some r⟩ ∧ t.pins = { s.pins with ready := true } ∧ begins r s t) ∧
    (s.pins.ready = true →
      ∃ t, exec .beginSending s = .next t ∧ t.link = ⟨rest, some r⟩ ∧ t.pins = s.pins ∧ begins r s t)) ∧
  (∀ s : State, s.link.sending.isSome = true ∨ s.link.queue = [] →
    exec .readyRise s = .next (s.setPins { s.pins with ready := true })) ∧
  (∀ s : State, s.pins.ready = false ∨ s.link.sending.isSome = true ∨ s.link.queue = [] →
    exec .beginSending s = .next s) ∧
  (∀ (s : State) (r : OutRecord), s.link.sending = some r →
    (∃ t, exec (.sendingCompletion false) s = .next t ∧ t.link = ⟨s.link.queue, none⟩ ∧ t.tracker = s.tracker ∧
      t.watches = s.watches) ∧
    ∃ t, exec (.sendingCompletion true) s = .next t ∧ t.link = ⟨s.link.queue.drop 1, s.link.queue.head?⟩ ∧
      (s.link.queue = [] → t.tracker = s.tracker ∧ t.watches = s.watches) ∧
      ∀ next rest, s.link.queue = next :: rest → begins next s t) ∧
  ∀ (s : State) (ready : Bool), s.link.sending = none → exec (.sendingCompletion ready) s = .next s

/-- The four tests of a stamp start in order: unmarked, nothing for pattern NONE, an overrun on a busy marker, and
otherwise the stamp in print with row 0 on and the end of its dot armed (R150, R152). The end of a dot releases the nozzles
and arms the next row, or completes the stamp; a row's position asserts its nozzles and arms the end of its dot (R151,
R148). -/
def Obligations.StampsArePrintedRowByRow : Prop :=
  (∀ (s : State) (w : Watch) (e : Entry) (d : Decision), linkAtRest s → comesDue s (.stampStart e.tag) w →
    findEntry e.tag s = some e → e.decision = some d →
    ∃ t, exec (.stampStart e.tag) s = .next t ∧
      (s.settings.markerEnable = false →
        entryBecomes e.tag (fun x => { x with flags := { x.flags with unmarked := true } }) s t ∧
        t.marker = s.marker ∧ t.attention = s.attention) ∧
      (s.settings.markerEnable = true → d.pattern = none → t = dropWatch w s) ∧
      (s.settings.markerEnable = true → d.pattern.isSome = true → s.marker.isSome = true →
        entryBecomes e.tag (fun x => { x with flags := { x.flags with markSkipped := true } }) s t ∧
        t.marker = s.marker ∧ raises [.markOverrun] s t) ∧
      (∀ rows, s.settings.markerEnable = true → d.pattern = some rows → s.marker = none →
        t.marker = some ⟨e.tag, rows, d.rowCount, w.pos, 0, true⟩ ∧ t.tracker = s.tracker ∧
        watched t .dotEnd (w.pos + bu s.settings.dotLength) ∧
        (s.agent.lineTest = none → nozzleLines t = rows.get 0))) ∧
  ∀ (s : State) (w : Watch) (p : Stamp), s.marker = some p → s.agent.lineTest = none →
    (comesDue s .dotEnd w →
      ∃ t, exec .dotEnd s = .next t ∧ nozzleLines t = 0 ∧ t.tracker = s.tracker ∧
        (p.row + 1 < p.rowCount → t.marker = some { p with dotOn := false } ∧
          watched t .row (p.start + BitVec.ofNat 32 ((p.row + 1) * s.settings.rowPitch.toNat))) ∧
        (p.rowCount ≤ p.row + 1 → t.marker = none)) ∧
    (comesDue s .row w →
      ∃ t, exec .rowPosition s = .next t ∧ t.marker = some { p with row := p.row + 1, dotOn := true } ∧
        watched t .dotEnd (w.pos + bu s.settings.dotLength) ∧ t.tracker = s.tracker ∧
        (∀ h : p.row + 1 < 4, nozzleLines t = p.rows.get ⟨p.row + 1, h⟩))

/-! ### Encoder pulses -/

/-- Reverse debt: a reverse pulse below the Reverse Limit adds one, and a forward pulse above 0 repays one and is not
counted; residue, belt counter, positions, sheets and flags stay (R20). A forward pulse at debt 0 is counted: in DIVIDE
mode the residue counts to the Pulse Ratio, where it returns to 0 and the belt advances by one (R22); in MULTIPLY mode the
belt advances by the Pulse Ratio and the residue stays (R23). -/
def Obligations.PulsesRepayAndAdvance : Prop :=
  (∀ s : State, s.agent.mode ≠ .loading →
    (s.position.debt < s.settings.reverseLimit.toNat →
      ∃ t, exec .reversePulse s = .next t ∧ t.position = { s.position with debt := s.position.debt + 1 } ∧
        t.watches = s.watches ∧ t.tracker = s.tracker ∧ t.attention = s.attention) ∧
    (0 < s.position.debt → ∀ whole,
      ∃ t, exec (.forwardPulse whole) s = .next t ∧ t.position = { s.position with debt := s.position.debt - 1 } ∧
        t.watches = s.watches ∧ t.tracker = s.tracker ∧ t.attention = s.attention)) ∧
  ∀ (s : State) (whole : Bool), s.agent.mode ≠ .loading → s.position.debt = 0 →
    ∃ t, exec (.forwardPulse whole) s = .next t ∧
      (s.settings.pulseMode = .divide → s.position.residue + 1 < s.settings.pulseRatio.toNat →
        t.position = { s.position with residue := s.position.residue + 1 } ∧ t.watches = s.watches) ∧
      (s.settings.pulseMode = .divide → s.position.residue + 1 = s.settings.pulseRatio.toNat →
        t.position = { s.position with residue := 0, belt := s.position.belt + 1 }) ∧
      (s.settings.pulseMode = .multiply →
        t.position = { s.position with belt := s.position.belt + s.settings.pulseRatio.setWidth 32 })

/-- A reverse pulse at the Reverse Limit is a reversal: the debt is 0, the counter and residue stay, BELT_REVERSED is set,
and every entry is suspect with the reversed flag (R21, R47). With the link at rest and distinct tags each entry takes the
effect of the first row of Table 3-4 that it meets (R48, R104): OPEN, flags only; CLOSED and undecided, decided SUSPECT at
once and off the Grading List, an evaluation of it going on; decided with its route PENDING and not diverted, the decision
replaced, where one decided SUSPECT already keeps its decision whatever the bank now holds (R48); any other, flags only.
A decision, fresh or kept, arms its positions (R130, R149; that the kept one arms its fire point anew is log 26). -/
def Obligations.ReversalMarksEverySheet : Prop :=
  ∀ s : State, s.agent.mode ≠ .loading → s.position.debt = s.settings.reverseLimit.toNat →
    ∃ t, exec .reversePulse s = .next t ∧ t.position = { s.position with debt := 0 } ∧
      flagSet t .beltReversed = true ∧ tagsOf t = tagsOf s ∧ t.tracker.blind = s.tracker.blind ∧
      (∀ x ∈ t.tracker.sheets, x.flags.suspect = true ∧ x.flags.reversed = true) ∧
      (tagsDistinct s → linkAtRest s → t.evaluator.inFlight = s.evaluator.inFlight ∧
        ∀ e ∈ s.tracker.sheets, ∃ flags d, flags = { e.flags with suspect := true, reversed := true } ∧
          d = (decisionBank s e).decide .suspect ∧
          (e.isOpen = true → findEntry e.tag t = some { e with flags := flags }) ∧
          (e.isOpen = false → e.decision = none →
            findEntry e.tag t = some { e with
              flags := flags, decision := some d
              evalStatus := if e.evalStatus = .listed then .none else e.evalStatus
              holding := e.holding && decide (e.evalStatus = .inEvaluation) } ∧
            e.tag ∉ t.evaluator.list ∧ armsPositions s t e d.gate) ∧
          (∀ d0, e.isOpen = false → e.decision = some d0 → e.route = .pending → e.flags.diverted = false →
            ∃ d1, (d0.source = .suspect → d1 = d0) ∧ (d0.source ≠ .suspect → d1 = d) ∧
              findEntry e.tag t = some { e with
                flags := flags, decision := some d1
                evalStatus := if e.evalStatus = .listed then .none else e.evalStatus } ∧
              armsPositions s t e d1.gate) ∧
          (e.isOpen = false → e.decision.isSome = true → e.route ≠ .pending ∨ e.flags.diverted = true →
            findEntry e.tag t = some { e with flags := flags }))

/-! ### Evaluation and table banks -/

/-- The satisfied rule is the first in use whose every test passes: length, lanes, moisture (which a sheet without samples
fails), wet count, items, and, under REFUSE, no count in an unlisted class; the result is that rule with its grade, or the
fallback with grade 15 (R94 to R98). -/
def Obligations.FirstSatisfiedRuleDecides : Prop :=
  (∀ (b : Bank) (e : Entry) (n : Fin 8), b.satisfiedRule e = some n ↔
    n.val < b.ruleCount.val ∧ (b.rules.get n).satisfied e = true ∧
      ∀ m : Fin 8, m < n → (b.rules.get m).satisfied e = false) ∧
  (∀ (b : Bank) (e : Entry),
    (∀ n, b.satisfiedRule e = some n →
      b.evaluate e = .rule n ∧ (b.decide (.rule n)).grade.val = (b.rules.get n).grade.val) ∧
    (b.satisfiedRule e = none → b.evaluate e = .fallback) ∧ (b.decide .fallback).grade = 15) ∧
  ∀ (r : Rule) (e : Entry), r.satisfied e = true ↔
    (∀ m, r.minLength = some m → m.toNat ≤ (e.length.getD 0).toNat) ∧
    (∀ m, r.minLanes = some m → m.toNat + e.first.toNat ≤ e.last.toNat + 1) ∧
    (∀ m, r.moistMax = some m → 0 < e.moisture.count ∧ ∃ x, e.moisture.maximum = some x ∧ x ≤ m.toNat) ∧
    (∀ m, r.wetMax = some m → e.moisture.wet ≤ m.toNat) ∧
    (∀ l ∈ r.items.toList.take r.itemCount.val,
      (∀ m, l.countMax = some m → (e.tally.get l.cls).count ≤ m.toNat) ∧
      (∀ m, l.sizeMax = some m → (e.tally.get l.cls).largest ≤ m.toNat) ∧
      (∀ m, l.areaMax = some m → (e.tally.get l.cls).area ≤ m.toNat)) ∧
    (r.policy = .refuse → ∀ k : Fin 12,
      (∃ l ∈ r.items.toList.take r.itemCount.val, l.cls = k) ∨ (e.tally.get k).count = 0)

/-- An IDLE evaluator takes the head of the Grading List; a completion decides an undecided entry by its result, gives a
LATE one its would-be grade, discards any other result, and leaves the evaluator IDLE or with the next entry (R93, R100 to
R103); a decision arms its positions (R130, R149). A decision is read from the bound bank while the entry
holds it and otherwise from the ACTIVE bank, and each source gives the grade, gate, pattern rows and row count of Table 3-2
(R45). The start happens within the command that brings its condition about,
and as a command of its own where the condition stands (log 12: the model's choice). -/
def Obligations.EvaluationStartsAndCompletes : Prop :=
  (∀ (s : State) (e : Entry), decisionBank s e = s.tables.bank (if e.holding then e.bank else s.tables.active)) ∧
  (∀ b : Bank,
    (∀ n : Fin 8, decisionIs b (b.decide (.rule n)) (b.rules.get n).grade.val (b.rules.get n).gate
      (b.rules.get n).pattern (.rule n)) ∧
    decisionIs b (b.decide .fatal) 12 (b.outcomes.get 0).gate (b.outcomes.get 0).pattern .fatal ∧
    decisionIs b (b.decide .suspect) 13 (b.outcomes.get 1).gate (b.outcomes.get 1).pattern .suspect ∧
    decisionIs b (b.decide .late) 14 (b.outcomes.get 2).gate (b.outcomes.get 2).pattern .late ∧
    decisionIs b (b.decide .fallback) 15 (b.outcomes.get 3).gate (b.outcomes.get 3).pattern .fallback) ∧
  (∀ (s : State) (e : Entry) (rest : List Tag), s.evaluator = ⟨e.tag :: rest, none⟩ → findEntry e.tag s = some e →
    ∃ t, exec .evaluationStart s = .next t ∧ t.evaluator = ⟨e.tag :: rest, some ⟨e.tag, e.bank⟩⟩ ∧
      entryBecomes e.tag (fun x => { x with evalStatus := .inEvaluation }) s t) ∧
  ∀ (s : State) (f : InFlight) (e : Entry), tagsDistinct s → linkAtRest s → s.evaluator.inFlight = some f →
    f.tag = e.tag → findEntry e.tag s = some e → e.isOpen = false →
    (e.decision.isSome = true → e.tag ∉ s.evaluator.list) →
    ∃ t x, exec .evaluationCompletion s = .next t ∧ findEntry e.tag t = some x ∧ x.holding = false ∧
      t.evaluator.list = s.evaluator.list.filter (fun y => y ≠ e.tag) ∧
      (t.evaluator.list = [] → t.evaluator.inFlight = none) ∧
      (∀ next rest y, t.evaluator.list = next :: rest → findEntry next s = some y →
        t.evaluator.inFlight = some ⟨next, y.bank⟩ ∧
        ∃ z, findEntry next t = some z ∧ z.evalStatus = .inEvaluation) ∧
      (e.decision = none → x.evalStatus = .done ∧ x.wouldBe = e.wouldBe ∧
        ∃ d, x.decision = some d ∧ d = (decisionBank s e).decide ((s.tables.bank f.bank).evaluate e) ∧
          d.source = (s.tables.bank f.bank).evaluate e ∧ armsPositions s t e d.gate) ∧
      (∀ d, e.decision = some d → d.source = .late →
        x.decision = some d ∧ x.evalStatus = .done ∧ x.flags = e.flags ∧
        x.wouldBe = some ((s.tables.bank f.bank).decide ((s.tables.bank f.bank).evaluate e)).grade) ∧
      (∀ d, e.decision = some d → d.source ≠ .late →
        x.decision = some d ∧ x.evalStatus = .none ∧ x.flags = e.flags ∧ x.wouldBe = e.wouldBe)

/-- The release of a RETIRING bank without a holder, a pending commit taking effect with the queue empty, and the
drain-end notice (R114, R120, R168); none acts where its condition does not stand (log 12, and for the notice log 28: the
model's choice). -/
def Obligations.InternalEventsOfBanksAndDraining : Prop :=
  (∀ s : State, s.tables.otherState = .retiring → s.tables.holders s.tables.other = 0 →
    ∃ t, exec .bankRelease s = .next t ∧ t.tables = { s.tables with otherState := .staging } ∧
      raises [.bankReleased] s t) ∧
  (∀ s : State, s.tracker.sheets = [] → s.tables.commitPending = true →
    ∃ t, exec .commitTakesEffect s = .next t ∧
      t.tables = { s.tables with
        active := s.tables.other
        otherState := if 0 < s.tables.holders s.tables.active then .retiring else .staging
        generation := s.tables.generation + 1
        commitPending := false } ∧
      raises [.commitDone] s t) ∧
  (∀ s : State, s.agent.mode = .draining → s.tracker.sheets = [] → s.tracker.blind = none →
    ∃ t, exec .drainEndNotice s = .next t ∧ t.agent = { s.agent with mode := .standby } ∧ raises [.drained] s t) ∧
  ∀ s : State,
    (s.tables.otherState = .staging ∨ 0 < s.tables.holders s.tables.other → exec .bankRelease s = .next s) ∧
    (s.tables.commitPending = false ∨ s.tracker.sheets ≠ [] → exec .commitTakesEffect s = .next s) ∧
    (s.agent.mode ≠ .draining ∨ s.tracker.sheets ≠ [] ∨ s.tracker.blind.isSome = true →
      exec .drainEndNotice s = .next s)

/-- A Commit: refused while a Copy is in flight or the other bank is RETIRING or a commit pending; TABLE_INVALID with the
first failing item; otherwise pending, and in effect at once when the queue is empty, before its REPLY (R117). -/
def Obligations.CommitIsCheckedThenPending : Prop :=
  ∀ (s : State) (h : ReqHeader), takes h s →
    (s.tables.copyInFlight = true →
      exec (.commit h) s = .next (answered h (.refuse .copyBusy) s s)) ∧
    (s.tables.copyInFlight = false → s.tables.otherState = .retiring ∨ s.tables.commitPending = true →
      exec (.commit h) s = .next (answered h (.refuse .bankBusy) s s)) ∧
    (s.tables.copyInFlight = false → s.tables.otherState = .staging → s.tables.commitPending = false →
      (∀ i, firstCommitFailure s.settings (s.tables.bank s.tables.other) = some i →
        exec (.commit h) s = .next (answered h (.at .tableInvalid i) s s)) ∧
      (firstCommitFailure s.settings (s.tables.bank s.tables.other) = none → s.tracker.sheets ≠ [] →
        exec (.commit h) s = .next (answered h .done s
          (s.setTables { s.tables with commitPending := true }))) ∧
      (firstCommitFailure s.settings (s.tables.bank s.tables.other) = none → s.tracker.sheets = [] →
        ∃ u, exec (.commit h) s = .next (answered h .done s u) ∧
          u.tables = { s.tables with
            active := s.tables.other
            otherState := if 0 < s.tables.holders s.tables.active then .retiring else .staging
            generation := s.tables.generation + 1 } ∧
          raises [.commitDone] s u))

/-- A Copy: refused as a Commit is, otherwise in flight with its REPLY due at the completion; the completion makes the
STAGING bank equal to the ACTIVE one and offers that REPLY (R122, R123, R163). A Read while it is in flight finds every
element of the STAGING bank with its value of before or with that of the ACTIVE bank, which stays; that what the Copy has
written by then is settled at the Read is the model's choice (log 8). -/
def Obligations.CopyStartsAndCompletes : Prop :=
  (∀ (s : State) (h : ReqHeader), takes h s →
    (s.tables.copyInFlight = true → exec (.copy h) s = .next (answered h (.refuse .copyBusy) s s)) ∧
    (s.tables.copyInFlight = false → s.tables.otherState = .retiring ∨ s.tables.commitPending = true →
      exec (.copy h) s = .next (answered h (.refuse .bankBusy) s s)) ∧
    (s.tables.copyInFlight = false → s.tables.otherState = .staging → s.tables.commitPending = false →
      ∃ t, exec (.copy h) s = .next t ∧ t.tables = { s.tables with copyInFlight := true } ∧
        t.agent.copyReply = some ⟨h.number, requestAnswered h s⟩ ∧ t.link = s.link)) ∧
  (∀ (s : State) (h : ReqHeader) (object selector : Byte) (index : Word) (count : Byte), takes h s →
    s.tables.copyInFlight = true →
    ∃ b u, u = draw (s.setTables (s.tables.setBank s.tables.other b)) ∧
      exec (.read h object selector index count) s =
        .next (answered h (answerRead object selector index count u) s u) ∧
      ∀ (o : TableObject) (i : Nat),
        o.read b i = o.read (s.tables.bank s.tables.other) i ∨ o.read b i = o.read (s.tables.bank s.tables.active) i) ∧
  ∀ (s : State) (r : CopyReply), s.tables.copyInFlight = true → s.agent.copyReply = some r →
    ∃ t, exec .copyCompletion s = .next t ∧
      t.tables.bank s.tables.other = s.tables.bank s.tables.active ∧
      t.tables.bank s.tables.active = s.tables.bank s.tables.active ∧
      t.tables.copyInFlight = false ∧ t.agent.copyReply = none ∧
      (r.due = true → roomForOffered s = true → onLink (.reply r.number s.agent.station .done []) t) ∧
      (r.due = false → t.link = s.link)

/-- A Write of a table object, of any object of Table 12-5 and any number of values: refused while a Copy is in flight or
the other bank is RETIRING or a commit pending (R115); BAD_INDEX unless its values form whole elements within the object
(R160); with a value out of the range of its item, BAD_VALUE with the place of the first one and nothing stored; otherwise
every element is stored in the STAGING bank, the other elements of the object, every element of the other objects and the ACTIVE bank staying (R116), with
the ranges of R77, R86, R108, R154 and R188. Shown once more on the bank's fields for Edge Zone Distance, Rule Count and Wet
Limit. -/
def Obligations.TableWriteIsWhole : Prop :=
  (∀ (s : State) (h : ReqHeader) (code : Byte) (o : TableObject) (index : Word) (values : List Word), takes h s →
    objectOf code = some (.table o) → values.length ≤ Config.valuesMax →
    ((∀ n, 1 ≤ n → index.toNat + n ≤ (Object.table o).elements s →
        valuesOf (Object.table o).size n index.toNat ≠ values.length) →
      exec (.writeTable h code index values) s = .next (answered h (.refuse .badIndex) s s)) ∧
    ∀ n, 1 ≤ n → index.toNat + n ≤ (Object.table o).elements s →
      valuesOf (Object.table o).size n index.toNat = values.length →
      (s.tables.copyInFlight = true →
        exec (.writeTable h code index values) s = .next (answered h (.refuse .copyBusy) s s)) ∧
      (s.tables.copyInFlight = false → s.tables.otherState = .retiring ∨ s.tables.commitPending = true →
        exec (.writeTable h code index values) s = .next (answered h (.refuse .bankBusy) s s)) ∧
      (tableBusy s = none →
        (∀ k j, k < n → j < (Object.table o).size (index.toNat + k) →
          valueFits o (index.toNat + k) (elementValues o index.toNat k values) j = false →
          (∀ k' j', k' < n → j' < (Object.table o).size (index.toNat + k') → k' < k ∨ (k' = k ∧ j' < j) →
            valueFits o (index.toNat + k') (elementValues o index.toNat k' values) j' = true) →
          exec (.writeTable h code index values) s =
            .next (answered h (.at .badValue (valuesOf (Object.table o).size k index.toNat + j)) s s)) ∧
        ((∀ k j, k < n → j < (Object.table o).size (index.toNat + k) →
            valueFits o (index.toNat + k) (elementValues o index.toNat k values) j = true) →
          ∃ b, exec (.writeTable h code index values) s =
              .next (answered h .done s (s.setTables (s.tables.setBank s.tables.other b))) ∧
            (∀ k < n, o.read b (index.toNat + k) =
              asRead o (index.toNat + k) (elementValues o index.toNat k values)) ∧
            ∀ (o' : TableObject) (i : Nat), i < (Object.table o').elements s →
              o' ≠ o ∨ i < index.toNat ∨ index.toNat + n ≤ i →
              o'.read b i = o'.read (s.tables.bank s.tables.other) i))) ∧
  ∀ (s : State) (h : ReqHeader) (v : Word), takes h s → tableBusy s = none →
    (v.toNat ≤ 1000 → ∃ t, exec (.writeTable h 0x42 0 [v]) s = .next t ∧
      t.tables = s.tables.setBank s.tables.other { s.tables.bank s.tables.other with edgeZone := v }) ∧
    (∀ n : Fin 9, v.toNat = n.val → ∃ t, exec (.writeTable h 0x43 0 [v]) s = .next t ∧
      t.tables = s.tables.setBank s.tables.other { s.tables.bank s.tables.other with ruleCount := n }) ∧
    (v.toNat ≤ 999 → ∃ t, exec (.writeTable h 0x4C 0 [v]) s = .next t ∧
      t.tables = s.tables.setBank s.tables.other { s.tables.bank s.tables.other with wetLimit := v })

/-- A check fails with the first code whose relation of Table 2-4 does not hold, and a bank with the first item index whose
relation of Table 7-3 does not hold; none fails exactly when all hold (R30, R31, R118). -/
def Obligations.ChecksAreTheRelations : Prop :=
  (∀ s : State,
    (firstConfigFailure s = none ↔ ∀ c, configHolds s c) ∧
    ∀ c, firstConfigFailure s = some c ↔ (¬ configHolds s c ∧ ∀ c' < c, configHolds s c')) ∧
  ∀ (st : Settings) (b : Bank),
    (firstCommitFailure st b = none ↔ ∀ i, commitHolds st b i) ∧
    ∀ i, firstCommitFailure st b = some i ↔ (¬ commitHolds st b i ∧ ∀ i' < i, commitHolds st b i')

/-! ### Requests -/

/-- The requests that only answer: a Read gives the values or a refusal, an Ident its eight values, an unknown kind or
misfitting fields BAD_OBJECT, a bad target and a bad action BAD_VALUE at 0, a Test outside STANDBY REFUSED_MODE (R159,
R161, R165, R166, R171); a Read with a Copy in flight answers from the STAGING bank as far as the Copy has come, with the model's count of free
values moved on (log 8, log 9: the model's choice). A Read is
judged in the order of R161: object, selector, PROTECTED, index and count; the value of a setting, of the belt, of the
flags and of the rejected-record counter is the one that stands. -/
def Obligations.RequestsThatOnlyAnswer : Prop :=
  (∀ (s : State) (h : ReqHeader), takes h s →
    (∀ object selector index count, s.tables.copyInFlight = false →
      exec (.read h object selector index count) s =
        .next (answered h (answerRead object selector index count s) s s)) ∧
    (∀ object selector index count, s.tables.copyInFlight = true →
      exec (.read h object selector index count) s =
        .next (answered h (answerRead object selector index count (copyProgress s)) s (copyProgress s))) ∧
    exec (.ident h) s = .next (answered h
      ⟨.done, [0x0A31, 0x0340, 0x0001, s.agent.station.setWidth 16, (if s.agent.groupResponder then 1 else 0),
        s.scan.deckValue.setWidth 16, (if s.agent.protect then 1 else 0), s.tables.generation.setWidth 16]⟩
      s s) ∧
    (∀ kind fields, (Instr.unknownRequest h kind fields).wf = true →
      exec (.unknownRequest h kind fields) s = .next (answered h (.refuse .badObject) s s)) ∧
    (∀ target, (Instr.modeRequestBadTarget h target).wf = true →
      exec (.modeRequestBadTarget h target) s = .next (answered h (.at .badValue 0) s s)) ∧
    (∀ action level nozzles, (Instr.testRequestBadAction h action level nozzles).wf = true →
      exec (.testRequestBadAction h action level nozzles) s =
        .next (answered h (if s.agent.mode = .standby then .at .badValue 0 else .refuse .refusedMode) s s)) ∧
    (∀ level nozzles levels, s.agent.mode ≠ .standby →
      exec (.testHold h level nozzles levels) s = .next (answered h (.refuse .refusedMode) s s) ∧
      exec (.testRelease h level nozzles levels) s = .next (answered h (.refuse .refusedMode) s s))) ∧
  ∀ (s : State) (object selector : Byte) (index : Word) (count : Byte),
    (objectOf object = none → answerRead object selector index count s = .refuse .badObject) ∧
    (∀ o, objectOf object = some (.table o) →
      (1 < selector.toNat → answerRead object selector index count s = .at .badValue 0) ∧
      (selector.toNat ≤ 1 → s.agent.protect = true → answerRead object selector index count s = .refuse .readProtected) ∧
      (selector.toNat ≤ 1 → s.agent.protect = false → count = 0 →
        answerRead object selector index count s = .refuse .badIndex)) ∧
    answerRead 0x21 selector 0 1 s =
      ⟨.done, [(s.position.belt >>> 16).setWidth 16, s.position.belt.setWidth 16]⟩ ∧
    answerRead 0x24 selector 0 1 s = ⟨.done, [s.attention.flags]⟩ ∧
    answerRead 0x26 selector 0 1 s = ⟨.done, [BitVec.ofNat 16 s.scan.rejected]⟩ ∧
    answerRead 0x05 selector 0 1 s = ⟨.done, [s.settings.scanLag]⟩ ∧
    (s.tracker.sheets.length ≤ Config.sheetQueueMax →
      answerRead 0x27 selector (BitVec.ofNat 16 s.tracker.sheets.length) 1 s = .refuse .badIndex)

/-- A Write names an object that can be written, or is BAD_OBJECT, and forms whole elements of it, or is BAD_INDEX, shown
on the settings of one value (R160, R162). A Write of a Group S setting: REFUSED_MODE outside STANDBY, BAD_VALUE outside
its range with nothing stored, and in range stored, every other setting staying as it is (R29, R162, Table 2-3); one gate
of Gate Distance is stored alone; Marker Enable and Report Enable are stored in any mode. The conditioner's settings: the
ratio's range is that of the Pulse Mode in force, MULTIPLY needs a ratio in 2 to 128, both reset the residue; Reverse Limit
refuses 0 and clamps the debt (R25). -/
def Obligations.SettingWrites : Prop :=
  (∀ (s : State) (h : ReqHeader) (v : Word) (code : Byte) (o : SettingS) (lo hi : Nat), takes h s →
    (code, o, lo, hi) ∈ plainSettings →
    (s.agent.mode ≠ .standby →
      exec (.write h code 0 [v]) s = .next (answered h (.refuse .refusedMode) s s)) ∧
    (s.agent.mode = .standby → v.toNat < lo ∨ hi < v.toNat →
      exec (.write h code 0 [v]) s = .next (answered h (.at .badValue 0) s s)) ∧
    (s.agent.mode = .standby → lo ≤ v.toNat → v.toNat ≤ hi →
      ∃ st, exec (.write h code 0 [v]) s = .next (answered h .done s (s.setSettings st)) ∧
        o.read st 0 = v ∧ (∀ x i, x ≠ o → x.read st i = x.read s.settings i) ∧
        (∀ (x : SettingL) i, x.read st i = x.read s.settings i))) ∧
  (∀ (s : State) (h : ReqHeader) (code : Byte) (index : Word) (values : List Word), takes h s →
    (objectOf code = none ∨ (∃ o, objectOf code = some (.status o)) →
      exec (.write h code index values) s = .next (answered h (.refuse .badObject) s s)) ∧
    (∀ o, objectOf code = some (.standby o) → o ≠ .gateDistance → index ≠ 0 ∨ values.length ≠ 1 →
      exec (.write h code index values) s = .next (answered h (.refuse .badIndex) s s))) ∧
  (∀ (s : State) (h : ReqHeader) (v : Word) (g : Fin 6), takes h s → s.agent.mode = .standby →
    exec (.write h 0x09 (BitVec.ofNat 16 g.val) [v]) s = .next (answered h .done s
      (s.setSettings { s.settings with gateDistance := s.settings.gateDistance.set g.val v }))) ∧
  (∀ (s : State) (h : ReqHeader) (v : Word), takes h s →
    (v = 0 ∨ v = 1 →
      exec (.write h 0x19 0 [v]) s = .next (answered h .done s
        (s.setSettings { s.settings with markerEnable := decide (v = 1) })) ∧
      exec (.write h 0x1A 0 [v]) s = .next (answered h .done s
        (s.setSettings { s.settings with reportEnable := decide (v = 1) }))) ∧
    (1 < v.toNat →
      exec (.write h 0x19 0 [v]) s = .next (answered h (.at .badValue 0) s s) ∧
      exec (.write h 0x1A 0 [v]) s = .next (answered h (.at .badValue 0) s s))) ∧
  ∀ (s : State) (h : ReqHeader) (v : Word), takes h s →
    (s.agent.mode ≠ .standby →
      exec (.writePulseMode h 0 [v]) s = .next (answered h (.refuse .refusedMode) s s) ∧
      exec (.writePulseRatio h 0 [v]) s = .next (answered h (.refuse .refusedMode) s s) ∧
      exec (.writeReverseLimit h 0 [v]) s = .next (answered h (.refuse .refusedMode) s s)) ∧
    (s.agent.mode = .standby →
      (v = 0 → ∃ t, exec (.writePulseMode h 0 [v]) s = .next t ∧ t.settings = { s.settings with pulseMode := .divide } ∧
        t.position = { s.position with residue := 0 }) ∧
      (v = 1 → 2 ≤ s.settings.pulseRatio.toNat → s.settings.pulseRatio.toNat ≤ 128 →
        ∃ t, exec (.writePulseMode h 0 [v]) s = .next t ∧ t.settings = { s.settings with pulseMode := .multiply } ∧
          t.position = { s.position with residue := 0 }) ∧
      (1 < v.toNat ∨ (v = 1 ∧ ¬ (2 ≤ s.settings.pulseRatio.toNat ∧ s.settings.pulseRatio.toNat ≤ 128)) →
        exec (.writePulseMode h 0 [v]) s = .next (answered h (.at .badValue 0) s s)) ∧
      ((s.settings.pulseMode = .divide ∧ 1 ≤ v.toNat ∧ v.toNat ≤ 4096) ∨
        (s.settings.pulseMode = .multiply ∧ 2 ≤ v.toNat ∧ v.toNat ≤ 128) →
        ∃ t, exec (.writePulseRatio h 0 [v]) s = .next t ∧ t.settings = { s.settings with pulseRatio := v } ∧
          t.position = { s.position with residue := 0 }) ∧
      ((s.settings.pulseMode = .divide ∧ (v.toNat < 1 ∨ 4096 < v.toNat)) ∨
        (s.settings.pulseMode = .multiply ∧ (v.toNat < 2 ∨ 128 < v.toNat)) →
        exec (.writePulseRatio h 0 [v]) s = .next (answered h (.at .badValue 0) s s)) ∧
      (v = 0 → exec (.writeReverseLimit h 0 [v]) s = .next (answered h (.at .badValue 0) s s)) ∧
      (v ≠ 0 → ∃ t, exec (.writeReverseLimit h 0 [v]) s = .next t ∧
        t.settings = { s.settings with reverseLimit := v } ∧
        t.position = { s.position with debt := min s.position.debt v.toNat } ∧
        flagSet t .beltReversed = flagSet s .beltReversed))

/-- A Write of one Alert Mask element in any mode after LOADING governs that flag's bit alone, and ALERT is asserted
exactly while a set flag has its mask bit set (R176, R179). -/
def Obligations.AlertMaskGovernsAlert : Prop :=
  (∀ (s : State) (h : ReqHeader) (f : Flag) (v : Word), takes h s →
    (v = 0 ∨ v = 1 → ∃ t, exec (.writeAlertMask h (BitVec.ofNat 16 f.code) [v]) s = .next t ∧
      maskSet t f = decide (v = 1) ∧ (∀ g, g ≠ f → maskSet t g = maskSet s g) ∧
      ∀ g, g ≠ .outDropped → flagSet t g = flagSet s g) ∧
    (1 < v.toNat → exec (.writeAlertMask h (BitVec.ofNat 16 f.code) [v]) s =
      .next (answered h (.at .badValue 0) s s))) ∧
  ∀ s : State, alertAsserted s = true ↔ ∃ f : Flag, flagSet s f = true ∧ maskSet s f = true

/-- Mode requests: STREAMING from STANDBY only when every configuration check passes, with the line test ended, the frame
number absent and the silence watch armed; back from DRAINING without checks; STANDBY_DRAIN drains, and ends at once with
nothing to drain; each request that changes nothing only answers (R30, R166 to R168). -/
def Obligations.ModeRequestsMoveTheMode : Prop :=
  ∀ (s : State) (h : ReqHeader), takes h s →
    (∀ code, s.agent.mode = .standby → firstConfigFailure s = some code →
      exec (.modeStreaming h) s = .next (answered h (.at .checkFailed code) s s)) ∧
    (s.agent.mode = .standby → firstConfigFailure s = none →
      ∃ t, exec (.modeStreaming h) s = .next t ∧ t.agent.mode = .streaming ∧ t.agent.lineTest = none ∧
        t.scan.expected = none ∧ t.scan.lastStamp = s.position.belt ∧ t.scan.silence = .armed ∧
        watched t .silence (s.position.belt + bu s.settings.silenceDistance)) ∧
    (s.agent.mode = .draining →
      exec (.modeStreaming h) s = .next (answered h ⟨.done, [2, 0]⟩ s (setMode .streaming s))) ∧
    (s.agent.mode = .streaming →
      exec (.modeStreaming h) s = .next (answered h ⟨.done, [2, 0]⟩ s s)) ∧
    (s.agent.mode = .streaming → s.tracker.sheets ≠ [] ∨ s.tracker.blind.isSome = true →
      exec (.modeStandbyDrain h) s = .next (answered h ⟨.done, [3, 0]⟩ s (setMode .draining s))) ∧
    (s.agent.mode = .streaming → s.tracker.sheets = [] → s.tracker.blind = none →
      ∃ t, exec (.modeStandbyDrain h) s = .next t ∧ t.agent.mode = .standby ∧ flagSet t .drained = true) ∧
    (s.agent.mode = .standby →
      exec (.modeStandbyDrain h) s = .next (answered h ⟨.done, [1, 0]⟩ s s) ∧
      exec (.modeStandbyFlush h) s = .next (answered h ⟨.done, [1, 0]⟩ s s)) ∧
    (s.agent.mode = .draining →
      exec (.modeStandbyDrain h) s = .next (answered h ⟨.done, [3, 0]⟩ s s))

/-- A flush drops every entry, the Grading List, the evaluation in flight, the Blind Span, every position, the stamp and
the waiting ROUTE records, ends every hold, lets a pending commit take effect, and leaves STANDBY; its REPLY is DONE with
the mode STANDBY and the number of entries dropped (R166); the tag counter, the settings and the counters stay, and no
DRAINED is raised (R55, R106, R127, R145, R155, R169). -/
def Obligations.FlushDropsEverything : Prop :=
  ∀ (s : State) (h : ReqHeader), takes h s → tracks s → linkAtRest s →
    ∃ t u, exec (.modeStandbyFlush h) s = .next t ∧
      t = answered h ⟨.done, [1, BitVec.ofNat 16 s.tracker.sheets.length]⟩ s u ∧
      u.agent.station = s.agent.station ∧ (∀ r ∈ u.link.queue, r.isRoute = false) ∧
      t.agent.mode = .standby ∧ t.tracker.sheets = [] ∧
      t.tracker.blind = none ∧ t.tracker.tagCounter = s.tracker.tagCounter ∧ t.evaluator = ⟨[], none⟩ ∧
      t.watches = [] ∧ t.marker = none ∧ t.interval.phase = .ended ∧
      t.tables.holders0 = 0 ∧ t.tables.holders1 = 0 ∧ t.tables.otherState = .staging ∧
      t.tables.commitPending = false ∧
      (∀ r ∈ t.link.queue, r.isRoute = false) ∧ t.attention.grades = s.attention.grades ∧
      t.settings = s.settings ∧ t.scan.rejected = s.scan.rejected ∧
      flagSet t .drained = flagSet s .drained ∧
      (s.tables.commitPending = true → t.tables.active = s.tables.other ∧ flagSet t .commitDone = true) ∧
      (s.tables.otherState = .retiring → flagSet t .bankReleased = true)

/-- A Clear tests every code before it clears any: a code above 15 is refused with its place; otherwise exactly the flags
named are cleared, and the counters chosen are 0 (R164, R6). OUT_DROPPED is cleared like any other, and set again only by a
REPLY that finds no room (R133). That a Clear row clears the counter it is named after whatever its choice bits say, where
its operands are not those of the row, is the model's choice (log 22). -/
def Obligations.ClearIsWhole : Prop :=
  ∀ (s : State) (h : ReqHeader) (choices : Byte) (codes : List Byte), takes h s →
    (∀ c ∈ [Instr.clearFlags h choices codes, .clearGradeCounters h choices codes, .clearRejectedCount h choices codes],
      (∀ i, codes.findIdx? (fun x => 15 < x.toNat) = some i →
        exec c s = .next (answered h (.at .badValue i) s s)) ∧
      ((∀ x ∈ codes, x.toNat ≤ 15) → ∃ t, exec c s = .next t ∧
        ∀ f : Flag, (f ≠ .outDropped ∨ requestAnswered h s = false ∨ roomForOffered s = true) →
          flagSet t f = (flagSet s f && !decide (BitVec.ofNat 8 f.code ∈ codes)))) ∧
    ((∀ x ∈ codes, x.toNat ≤ 15) →
      (∃ t, exec (.clearGradeCounters h choices codes) s = .next t ∧ ∀ g, t.attention.grades.get g = 0) ∧
      (∃ t, exec (.clearRejectedCount h choices codes) s = .next t ∧ t.scan.rejected = 0) ∧
      ∃ t, exec (.clearFlags h choices codes) s = .next t ∧
        t.attention.grades = (if choices.getLsbD 0 then Vector.replicate 16 0 else s.attention.grades) ∧
        t.scan.rejected = (if choices.getLsbD 1 then 0 else s.scan.rejected))

/-- A Test taken in STANDBY: HOLD drives DIVERT and the nozzle lines to what it gives and replaces any test before it,
RELEASE gives them back to their owners; the REPLY carries the four input levels sampled (R171). That the levels enter as
the operand of the command and stand as the levels of the pins afterwards is the model's choice (log 10). -/
def Obligations.LineTestDrivesTheOutputs : Prop :=
  ∀ (s : State) (h : ReqHeader) (level : Byte) (nozzles : NozzleSet) (levels : Pins) (values : List Word), takes h s →
    s.agent.mode = .standby →
    values = [if levels.encA then 1 else 0, if levels.encDir then 1 else 0, if levels.ready then 1 else 0,
      if levels.deck then 1 else 0] →
    (∃ t u, exec (.testHold h level nozzles levels) s = .next t ∧ t = answered h ⟨.done, values⟩ s u ∧
      u.pins = levels ∧ t.pins = levels ∧ t.agent.lineTest = some ⟨level ≠ 0, nozzles⟩ ∧
      divertAsserted t = decide (level ≠ 0) ∧ nozzleLines t = nozzles ∧ t.agent.mode = .standby ∧
      t.position = s.position) ∧
    ∃ t u, exec (.testRelease h level nozzles levels) s = .next t ∧ t = answered h ⟨.done, values⟩ s u ∧
      u.pins = levels ∧ t.pins = levels ∧ t.agent.lineTest = none ∧
      divertAsserted t = divertWanted t ∧ nozzleLines t = markerNozzles t ∧ t.agent.mode = .standby

/-! ### Attention, records offered, and resets -/

/-- A raised flag that is set already changes nothing; one that is clear is set, and with its mask bit set offers an ALERT
record with its code and the position of the event; an offered record joins the tail when fewer than 32 records and fewer
than 24 not ROUTE wait, and is dropped with OUT_DROPPED otherwise (R133, R175, R177). -/
def Obligations.RaisingAndOffering : Prop :=
  (∀ (c : Ctx) (f : Flag) (s : State),
    (flagSet s f = true → raise c f s = s) ∧
    (flagSet s f = false → maskSet s f = false → raise c f s = setFlag f s) ∧
    (flagSet s f = false → maskSet s f = true → raise c f s = offer (.alert f c.here) (setFlag f s))) ∧
  (∀ (f g : Flag) (s : State), flagSet (setFlag f s) g = (decide (g = f) || flagSet s g)) ∧
  ∀ (r : OutRecord) (s : State),
    (s.link.queue.length < 32 → nonRouteCount s.link.queue < 24 →
      (s.pins.ready = false ∨ s.link.sending.isSome = true →
        offer r s = s.setLink { s.link with queue := s.link.queue ++ [r] }) ∧
      (s.pins.ready = true → s.link = ⟨[], none⟩ → (offer r s).link = ⟨[], some r⟩)) ∧
    (32 ≤ s.link.queue.length ∨ 24 ≤ nonRouteCount s.link.queue → offer r s = setFlag .outDropped s)

/-- A warm reset, by RESET_N outside a power-on LOADING or by a Restart taken: the start-up record of its cause, with the
mode before it, also where that is the LOADING of a warm reset (R182), LOADING, and the
values of Table 11-4; settings, grade counters, rejected-record counter, ACTIVE bank and generation are kept (R58, R129,
R173, R181, R184, R185). The option faulted value of the record is no until LOADING ends (log 16), and PIN_RESET is the
whole pulse in one step (log 20): both are the model's choice. -/
def Obligations.WarmResetKeepsAndClears : Prop :=
  ∀ (s : State) (h : ReqHeader) (c : Instr) (cause : Cause) (number : Option Byte),
    ((c = .pinReset ∧ cause = .pin ∧ number = none ∧
        (s.agent.mode ≠ .loading ∨ s.attention.startup.cause ≠ .power)) ∨
      (c = .restart h ∧ cause = .command ∧ number = some h.number ∧ takes h s)) →
    ∃ t, exec c s = .next t ∧
      t.attention.startup = ⟨cause, number, some s.agent.mode, some s.tracker.sheets.length, false⟩ ∧
      t.agent.mode = .loading ∧ t.agent.lineTest = none ∧ t.agent.copyReply = none ∧
      t.tracker = ⟨[], 0, none⟩ ∧ t.evaluator = ⟨[], none⟩ ∧ t.link = ⟨[], none⟩ ∧ t.marker = none ∧
      t.watches = [] ∧ t.position = ⟨0, 0, 0⟩ ∧ t.interval.phase = .ended ∧
      t.scan.framing = .hunting ∧ t.scan.expected = none ∧ t.scan.silence = .fired ∧ t.scan.lastStamp = 0 ∧
      t.attention.flags = 0 ∧ alertAsserted t = false ∧ divertAsserted t = false ∧ nozzleLines t = 0 ∧
      t.scan.rejected = s.scan.rejected ∧ t.attention.grades = s.attention.grades ∧ t.settings = s.settings ∧
      t.tables.active = s.tables.active ∧ t.tables.generation = s.tables.generation ∧
      t.tables.otherState = .staging ∧ t.tables.holders0 = 0 ∧ t.tables.holders1 = 0 ∧
      t.tables.commitPending = false ∧ t.tables.copyInFlight = false

/-- A power-on leaves the power-on column of Table 11-4 in any state before it: LOADING, the defaults of Tables 2-3 and
10-3, both banks at their power-on contents with Bank 0 ACTIVE, every counter 0 (R128, R181, R184, R185); in LOADING a pin
reset keeps the cause POWER of a power-on (R182). The option faulted value of the record is no, and the deck value, the
station's settings and the moisture section are the defaults, until LOADING ends (log 15, log 16: the model's choice). -/
def Obligations.PowerOnSetsDefaults : Prop :=
  (∀ s : State, ∃ t, exec .powerOn s = .next t ∧ t.attention.startup = ⟨.power, none, none, none, false⟩ ∧
    t.agent.mode = .loading ∧ t.settings = Settings.powerOn ∧
    t.settings.pulseMode = .divide ∧ t.settings.pulseRatio = 1 ∧ t.settings.reverseLimit = 256 ∧
    t.settings.laneCount = 16 ∧ t.settings.scanLag = 0 ∧ t.settings.decisionDistance = 0 ∧
    t.settings.markerDistance = 0 ∧ t.settings.divertDistance = 0 ∧ t.settings.retireDistance = 0 ∧
    t.settings.silenceDistance = 2000 ∧ t.settings.maxSheetLength = 1400 ∧
    t.settings.routeLead = 200 ∧ t.settings.staleDistance = 300 ∧ t.settings.rowPitch = 10 ∧
    t.settings.dotLength = 4 ∧ t.settings.alertMask = 0 ∧ t.settings.markerEnable = false ∧
    t.settings.reportEnable = true ∧ (∀ g, t.settings.gateDistance.get g = 0) ∧
    t.tables.active = .bank0 ∧ t.tables.otherState = .staging ∧ t.tables.generation = 0 ∧
    t.tables.commitPending = false ∧ t.tables.copyInFlight = false ∧
    (∀ id, (t.tables.bank id).ruleCount = 0 ∧ (t.tables.bank id).edgeZone = 0 ∧ (t.tables.bank id).rowCount = 1 ∧
      (∀ i, (t.tables.bank id).classTable.get i = ⟨none, false⟩) ∧
      (t.tables.bank id).bandLimits = #v[100, 300, 600] ∧ (∀ i, (t.tables.bank id).rules.get i = Rule.powerOn) ∧
      (∀ i, (t.tables.bank id).outcomes.get i = ⟨0, none⟩) ∧
      (t.tables.bank id).knots = #v[0, 8192, 16384, 24576, 32768, 40960, 49152, 57344] ∧
      (∀ c i, ((t.tables.bank id).curves.get c).get i = 0) ∧ (∀ i, (t.tables.bank id).thresholds.get i = 0) ∧
      (t.tables.bank id).wetLimit = 999 ∧ (∀ i, (t.tables.bank id).patterns.get i = 0)) ∧
    t.tables.holders0 = 0 ∧ t.tables.holders1 = 0 ∧ t.evaluator = ⟨[], none⟩ ∧ t.watches = [] ∧
    t.interval.phase = .ended ∧ t.agent.lineTest = none ∧ t.agent.copyReply = none ∧ t.agent.station = 0 ∧
    t.agent.groupResponder = false ∧ t.agent.protect = false ∧ t.scan.deckValue = 0 ∧ t.scan.lastStamp = 0 ∧
    alertAsserted t = false ∧ divertAsserted t = false ∧ nozzleLines t = 0 ∧
    t.position = ⟨0, 0, 0⟩ ∧ t.tracker = ⟨[], 0, none⟩ ∧ t.link = ⟨[], none⟩ ∧ t.attention.flags = 0 ∧
    (∀ g, t.attention.grades.get g = 0) ∧ t.scan.rejected = 0 ∧ t.scan.framing = .hunting ∧
    t.scan.silence = .fired ∧ t.scan.expected = none ∧ t.marker = none) ∧
  ∀ s : State, s.agent.mode = .loading → s.attention.startup.cause = .power →
    ∃ t, exec .pinReset s = .next t ∧ t.attention.startup = s.attention.startup ∧ t.agent.mode = .loading ∧
      t.settings = s.settings

/-- The end of LOADING: the Option Block judged and its settings taken, or the defaults; OPTION_FAULT for a fault; the
preset into both banks at a power-on LOADING only; the deck value sampled; STANDBY; the START record first on the link,
whose option faulted value is the judgement (R87, R88, R183, R184), and behind it the ALERT record of OPTION_FAULT where
that flag has changed to set with its mask bit set, and nothing else (R178). That READY and DECK enter as levels (log 10) and the
Option Block's contents as an operand, or as they stand when it has not been programmed anew (log 11), is the model's
choice. -/
def Obligations.LoadingEndsInStandby : Prop :=
  (∀ (s : State) (levels : Pins), exec (.loadingEnd none levels) s = exec (.loadingEnd (some s.optionBlock) levels) s) ∧
  ∀ (s : State) (o : OptionBlock) (levels : Pins), s.agent.mode = .loading → s.link = ⟨[], none⟩ →
    ∃ t faulted, exec (.loadingEnd (some o) levels) s = .next t ∧
      (faulted = true ↔ (o.checkAgrees = false ∨ o.station = 63 ∨
        (∃ i : Fin 7, (o.knots.get i.succ).toNat ≤ (o.knots.get i.castSucc).toNat) ∨
        ∃ (c : Fin 3) (i : Fin 128), 999 < ((o.curves.get c).get i).toNat)) ∧
      t.agent.mode = .standby ∧ t.scan.deckValue = (if levels.deck then 1 else 0) ∧ t.pins = levels ∧
      t.optionBlock = o ∧
      t.attention.startup = { s.attention.startup with optionFaulted := faulted } ∧
      flagSet t .optionFault = (faulted || flagSet s .optionFault) ∧
      (o.checkAgrees = false ∨ o.station = 63 →
        t.agent.station = 0 ∧ t.agent.groupResponder = false ∧ t.agent.protect = false) ∧
      (o.checkAgrees = true → o.station ≠ 63 →
        t.agent.station = o.station ∧ t.agent.groupResponder = o.groupResponder ∧ t.agent.protect = o.protect) ∧
      (s.attention.startup.cause = .power → ∀ id,
        (t.tables.bank id).knots = (if faulted then defaultKnots else o.knots) ∧
        (t.tables.bank id).curves = (if faulted then defaultCurves else o.curves) ∧
        (t.tables.bank id).wetLimit = 999 ∧ ∀ i, (t.tables.bank id).thresholds.get i = 0) ∧
      (s.attention.startup.cause ≠ .power → t.tables = s.tables) ∧
      ∃ alerts, alerts = (if faulted = true ∧ flagSet s .optionFault = false ∧ maskSet s .optionFault = true
          then [.alert .optionFault s.position.belt] else []) ∧
        (levels.ready = true → t.link = ⟨alerts, some (.start t.attention.startup)⟩) ∧
        (levels.ready = false → t.link = ⟨.start t.attention.startup :: alerts, none⟩)
end

