-- ==== Sys2Proof/Laws/State.lean ====
section
/-! SUPPORT. What each setter of State does to each field: one lemma per field per setter, all true by rfl. -/
namespace Sys2Proof.Machine
variable (s : State)

@[simp] theorem State.setScan_scan (v : ScanPort) : (s.setScan v).scan = v := rfl
@[simp] theorem State.setScan_position (v : ScanPort) : (s.setScan v).position = s.position := rfl
@[simp] theorem State.setScan_watches (v : ScanPort) : (s.setScan v).watches = s.watches := rfl
@[simp] theorem State.setScan_settings (v : ScanPort) : (s.setScan v).settings = s.settings := rfl
@[simp] theorem State.setScan_tracker (v : ScanPort) : (s.setScan v).tracker = s.tracker := rfl
@[simp] theorem State.setScan_evaluator (v : ScanPort) : (s.setScan v).evaluator = s.evaluator := rfl
@[simp] theorem State.setScan_tables (v : ScanPort) : (s.setScan v).tables = s.tables := rfl
@[simp] theorem State.setScan_interval (v : ScanPort) : (s.setScan v).interval = s.interval := rfl
@[simp] theorem State.setScan_link (v : ScanPort) : (s.setScan v).link = s.link := rfl
@[simp] theorem State.setScan_marker (v : ScanPort) : (s.setScan v).marker = s.marker := rfl
@[simp] theorem State.setScan_agent (v : ScanPort) : (s.setScan v).agent = s.agent := rfl
@[simp] theorem State.setScan_attention (v : ScanPort) : (s.setScan v).attention = s.attention := rfl
@[simp] theorem State.setScan_pins (v : ScanPort) : (s.setScan v).pins = s.pins := rfl
@[simp] theorem State.setScan_optionBlock (v : ScanPort) : (s.setScan v).optionBlock = s.optionBlock := rfl
@[simp] theorem State.setScan_draws (v : ScanPort) : (s.setScan v).draws = s.draws := rfl
@[simp] theorem State.setScan_pending (v : ScanPort) : (s.setScan v).pending = s.pending := rfl
@[simp] theorem State.setPosition_scan (v : PositionUnit) : (s.setPosition v).scan = s.scan := rfl
@[simp] theorem State.setPosition_position (v : PositionUnit) : (s.setPosition v).position = v := rfl
@[simp] theorem State.setPosition_watches (v : PositionUnit) : (s.setPosition v).watches = s.watches := rfl
@[simp] theorem State.setPosition_settings (v : PositionUnit) : (s.setPosition v).settings = s.settings := rfl
@[simp] theorem State.setPosition_tracker (v : PositionUnit) : (s.setPosition v).tracker = s.tracker := rfl
@[simp] theorem State.setPosition_evaluator (v : PositionUnit) : (s.setPosition v).evaluator = s.evaluator := rfl
@[simp] theorem State.setPosition_tables (v : PositionUnit) : (s.setPosition v).tables = s.tables := rfl
@[simp] theorem State.setPosition_interval (v : PositionUnit) : (s.setPosition v).interval = s.interval := rfl
@[simp] theorem State.setPosition_link (v : PositionUnit) : (s.setPosition v).link = s.link := rfl
@[simp] theorem State.setPosition_marker (v : PositionUnit) : (s.setPosition v).marker = s.marker := rfl
@[simp] theorem State.setPosition_agent (v : PositionUnit) : (s.setPosition v).agent = s.agent := rfl
@[simp] theorem State.setPosition_attention (v : PositionUnit) : (s.setPosition v).attention = s.attention := rfl
@[simp] theorem State.setPosition_pins (v : PositionUnit) : (s.setPosition v).pins = s.pins := rfl
@[simp] theorem State.setPosition_optionBlock (v : PositionUnit) : (s.setPosition v).optionBlock = s.optionBlock := rfl
@[simp] theorem State.setPosition_draws (v : PositionUnit) : (s.setPosition v).draws = s.draws := rfl
@[simp] theorem State.setPosition_pending (v : PositionUnit) : (s.setPosition v).pending = s.pending := rfl
@[simp] theorem State.setWatches_scan (v : List Watch) : (s.setWatches v).scan = s.scan := rfl
@[simp] theorem State.setWatches_position (v : List Watch) : (s.setWatches v).position = s.position := rfl
@[simp] theorem State.setWatches_watches (v : List Watch) : (s.setWatches v).watches = v := rfl
@[simp] theorem State.setWatches_settings (v : List Watch) : (s.setWatches v).settings = s.settings := rfl
@[simp] theorem State.setWatches_tracker (v : List Watch) : (s.setWatches v).tracker = s.tracker := rfl
@[simp] theorem State.setWatches_evaluator (v : List Watch) : (s.setWatches v).evaluator = s.evaluator := rfl
@[simp] theorem State.setWatches_tables (v : List Watch) : (s.setWatches v).tables = s.tables := rfl
@[simp] theorem State.setWatches_interval (v : List Watch) : (s.setWatches v).interval = s.interval := rfl
@[simp] theorem State.setWatches_link (v : List Watch) : (s.setWatches v).link = s.link := rfl
@[simp] theorem State.setWatches_marker (v : List Watch) : (s.setWatches v).marker = s.marker := rfl
@[simp] theorem State.setWatches_agent (v : List Watch) : (s.setWatches v).agent = s.agent := rfl
@[simp] theorem State.setWatches_attention (v : List Watch) : (s.setWatches v).attention = s.attention := rfl
@[simp] theorem State.setWatches_pins (v : List Watch) : (s.setWatches v).pins = s.pins := rfl
@[simp] theorem State.setWatches_optionBlock (v : List Watch) : (s.setWatches v).optionBlock = s.optionBlock := rfl
@[simp] theorem State.setWatches_draws (v : List Watch) : (s.setWatches v).draws = s.draws := rfl
@[simp] theorem State.setWatches_pending (v : List Watch) : (s.setWatches v).pending = s.pending := rfl
@[simp] theorem State.setSettings_scan (v : Settings) : (s.setSettings v).scan = s.scan := rfl
@[simp] theorem State.setSettings_position (v : Settings) : (s.setSettings v).position = s.position := rfl
@[simp] theorem State.setSettings_watches (v : Settings) : (s.setSettings v).watches = s.watches := rfl
@[simp] theorem State.setSettings_settings (v : Settings) : (s.setSettings v).settings = v := rfl
@[simp] theorem State.setSettings_tracker (v : Settings) : (s.setSettings v).tracker = s.tracker := rfl
@[simp] theorem State.setSettings_evaluator (v : Settings) : (s.setSettings v).evaluator = s.evaluator := rfl
@[simp] theorem State.setSettings_tables (v : Settings) : (s.setSettings v).tables = s.tables := rfl
@[simp] theorem State.setSettings_interval (v : Settings) : (s.setSettings v).interval = s.interval := rfl
@[simp] theorem State.setSettings_link (v : Settings) : (s.setSettings v).link = s.link := rfl
@[simp] theorem State.setSettings_marker (v : Settings) : (s.setSettings v).marker = s.marker := rfl
@[simp] theorem State.setSettings_agent (v : Settings) : (s.setSettings v).agent = s.agent := rfl
@[simp] theorem State.setSettings_attention (v : Settings) : (s.setSettings v).attention = s.attention := rfl
@[simp] theorem State.setSettings_pins (v : Settings) : (s.setSettings v).pins = s.pins := rfl
@[simp] theorem State.setSettings_optionBlock (v : Settings) : (s.setSettings v).optionBlock = s.optionBlock := rfl
@[simp] theorem State.setSettings_draws (v : Settings) : (s.setSettings v).draws = s.draws := rfl
@[simp] theorem State.setSettings_pending (v : Settings) : (s.setSettings v).pending = s.pending := rfl
@[simp] theorem State.setTracker_scan (v : Tracker) : (s.setTracker v).scan = s.scan := rfl
@[simp] theorem State.setTracker_position (v : Tracker) : (s.setTracker v).position = s.position := rfl
@[simp] theorem State.setTracker_watches (v : Tracker) : (s.setTracker v).watches = s.watches := rfl
@[simp] theorem State.setTracker_settings (v : Tracker) : (s.setTracker v).settings = s.settings := rfl
@[simp] theorem State.setTracker_tracker (v : Tracker) : (s.setTracker v).tracker = v := rfl
@[simp] theorem State.setTracker_evaluator (v : Tracker) : (s.setTracker v).evaluator = s.evaluator := rfl
@[simp] theorem State.setTracker_tables (v : Tracker) : (s.setTracker v).tables = s.tables := rfl
@[simp] theorem State.setTracker_interval (v : Tracker) : (s.setTracker v).interval = s.interval := rfl
@[simp] theorem State.setTracker_link (v : Tracker) : (s.setTracker v).link = s.link := rfl
@[simp] theorem State.setTracker_marker (v : Tracker) : (s.setTracker v).marker = s.marker := rfl
@[simp] theorem State.setTracker_agent (v : Tracker) : (s.setTracker v).agent = s.agent := rfl
@[simp] theorem State.setTracker_attention (v : Tracker) : (s.setTracker v).attention = s.attention := rfl
@[simp] theorem State.setTracker_pins (v : Tracker) : (s.setTracker v).pins = s.pins := rfl
@[simp] theorem State.setTracker_optionBlock (v : Tracker) : (s.setTracker v).optionBlock = s.optionBlock := rfl
@[simp] theorem State.setTracker_draws (v : Tracker) : (s.setTracker v).draws = s.draws := rfl
@[simp] theorem State.setTracker_pending (v : Tracker) : (s.setTracker v).pending = s.pending := rfl
@[simp] theorem State.setEvaluator_scan (v : Evaluator) : (s.setEvaluator v).scan = s.scan := rfl
@[simp] theorem State.setEvaluator_position (v : Evaluator) : (s.setEvaluator v).position = s.position := rfl
@[simp] theorem State.setEvaluator_watches (v : Evaluator) : (s.setEvaluator v).watches = s.watches := rfl
@[simp] theorem State.setEvaluator_settings (v : Evaluator) : (s.setEvaluator v).settings = s.settings := rfl
@[simp] theorem State.setEvaluator_tracker (v : Evaluator) : (s.setEvaluator v).tracker = s.tracker := rfl
@[simp] theorem State.setEvaluator_evaluator (v : Evaluator) : (s.setEvaluator v).evaluator = v := rfl
@[simp] theorem State.setEvaluator_tables (v : Evaluator) : (s.setEvaluator v).tables = s.tables := rfl
@[simp] theorem State.setEvaluator_interval (v : Evaluator) : (s.setEvaluator v).interval = s.interval := rfl
@[simp] theorem State.setEvaluator_link (v : Evaluator) : (s.setEvaluator v).link = s.link := rfl
@[simp] theorem State.setEvaluator_marker (v : Evaluator) : (s.setEvaluator v).marker = s.marker := rfl
@[simp] theorem State.setEvaluator_agent (v : Evaluator) : (s.setEvaluator v).agent = s.agent := rfl
@[simp] theorem State.setEvaluator_attention (v : Evaluator) : (s.setEvaluator v).attention = s.attention := rfl
@[simp] theorem State.setEvaluator_pins (v : Evaluator) : (s.setEvaluator v).pins = s.pins := rfl
@[simp] theorem State.setEvaluator_optionBlock (v : Evaluator) : (s.setEvaluator v).optionBlock = s.optionBlock := rfl
@[simp] theorem State.setEvaluator_draws (v : Evaluator) : (s.setEvaluator v).draws = s.draws := rfl
@[simp] theorem State.setEvaluator_pending (v : Evaluator) : (s.setEvaluator v).pending = s.pending := rfl
@[simp] theorem State.setTables_scan (v : TableStore) : (s.setTables v).scan = s.scan := rfl
@[simp] theorem State.setTables_position (v : TableStore) : (s.setTables v).position = s.position := rfl
@[simp] theorem State.setTables_watches (v : TableStore) : (s.setTables v).watches = s.watches := rfl
@[simp] theorem State.setTables_settings (v : TableStore) : (s.setTables v).settings = s.settings := rfl
@[simp] theorem State.setTables_tracker (v : TableStore) : (s.setTables v).tracker = s.tracker := rfl
@[simp] theorem State.setTables_evaluator (v : TableStore) : (s.setTables v).evaluator = s.evaluator := rfl
@[simp] theorem State.setTables_tables (v : TableStore) : (s.setTables v).tables = v := rfl
@[simp] theorem State.setTables_interval (v : TableStore) : (s.setTables v).interval = s.interval := rfl
@[simp] theorem State.setTables_link (v : TableStore) : (s.setTables v).link = s.link := rfl
@[simp] theorem State.setTables_marker (v : TableStore) : (s.setTables v).marker = s.marker := rfl
@[simp] theorem State.setTables_agent (v : TableStore) : (s.setTables v).agent = s.agent := rfl
@[simp] theorem State.setTables_attention (v : TableStore) : (s.setTables v).attention = s.attention := rfl
@[simp] theorem State.setTables_pins (v : TableStore) : (s.setTables v).pins = s.pins := rfl
@[simp] theorem State.setTables_optionBlock (v : TableStore) : (s.setTables v).optionBlock = s.optionBlock := rfl
@[simp] theorem State.setTables_draws (v : TableStore) : (s.setTables v).draws = s.draws := rfl
@[simp] theorem State.setTables_pending (v : TableStore) : (s.setTables v).pending = s.pending := rfl
@[simp] theorem State.setInterval_scan (v : Interval) : (s.setInterval v).scan = s.scan := rfl
@[simp] theorem State.setInterval_position (v : Interval) : (s.setInterval v).position = s.position := rfl
@[simp] theorem State.setInterval_watches (v : Interval) : (s.setInterval v).watches = s.watches := rfl
@[simp] theorem State.setInterval_settings (v : Interval) : (s.setInterval v).settings = s.settings := rfl
@[simp] theorem State.setInterval_tracker (v : Interval) : (s.setInterval v).tracker = s.tracker := rfl
@[simp] theorem State.setInterval_evaluator (v : Interval) : (s.setInterval v).evaluator = s.evaluator := rfl
@[simp] theorem State.setInterval_tables (v : Interval) : (s.setInterval v).tables = s.tables := rfl
@[simp] theorem State.setInterval_interval (v : Interval) : (s.setInterval v).interval = v := rfl
@[simp] theorem State.setInterval_link (v : Interval) : (s.setInterval v).link = s.link := rfl
@[simp] theorem State.setInterval_marker (v : Interval) : (s.setInterval v).marker = s.marker := rfl
@[simp] theorem State.setInterval_agent (v : Interval) : (s.setInterval v).agent = s.agent := rfl
@[simp] theorem State.setInterval_attention (v : Interval) : (s.setInterval v).attention = s.attention := rfl
@[simp] theorem State.setInterval_pins (v : Interval) : (s.setInterval v).pins = s.pins := rfl
@[simp] theorem State.setInterval_optionBlock (v : Interval) : (s.setInterval v).optionBlock = s.optionBlock := rfl
@[simp] theorem State.setInterval_draws (v : Interval) : (s.setInterval v).draws = s.draws := rfl
@[simp] theorem State.setInterval_pending (v : Interval) : (s.setInterval v).pending = s.pending := rfl
@[simp] theorem State.setLink_scan (v : Link) : (s.setLink v).scan = s.scan := rfl
@[simp] theorem State.setLink_position (v : Link) : (s.setLink v).position = s.position := rfl
@[simp] theorem State.setLink_watches (v : Link) : (s.setLink v).watches = s.watches := rfl
@[simp] theorem State.setLink_settings (v : Link) : (s.setLink v).settings = s.settings := rfl
@[simp] theorem State.setLink_tracker (v : Link) : (s.setLink v).tracker = s.tracker := rfl
@[simp] theorem State.setLink_evaluator (v : Link) : (s.setLink v).evaluator = s.evaluator := rfl
@[simp] theorem State.setLink_tables (v : Link) : (s.setLink v).tables = s.tables := rfl
@[simp] theorem State.setLink_interval (v : Link) : (s.setLink v).interval = s.interval := rfl
@[simp] theorem State.setLink_link (v : Link) : (s.setLink v).link = v := rfl
@[simp] theorem State.setLink_marker (v : Link) : (s.setLink v).marker = s.marker := rfl
@[simp] theorem State.setLink_agent (v : Link) : (s.setLink v).agent = s.agent := rfl
@[simp] theorem State.setLink_attention (v : Link) : (s.setLink v).attention = s.attention := rfl
@[simp] theorem State.setLink_pins (v : Link) : (s.setLink v).pins = s.pins := rfl
@[simp] theorem State.setLink_optionBlock (v : Link) : (s.setLink v).optionBlock = s.optionBlock := rfl
@[simp] theorem State.setLink_draws (v : Link) : (s.setLink v).draws = s.draws := rfl
@[simp] theorem State.setLink_pending (v : Link) : (s.setLink v).pending = s.pending := rfl
@[simp] theorem State.setMarker_scan (v : Option Stamp) : (s.setMarker v).scan = s.scan := rfl
@[simp] theorem State.setMarker_position (v : Option Stamp) : (s.setMarker v).position = s.position := rfl
@[simp] theorem State.setMarker_watches (v : Option Stamp) : (s.setMarker v).watches = s.watches := rfl
@[simp] theorem State.setMarker_settings (v : Option Stamp) : (s.setMarker v).settings = s.settings := rfl
@[simp] theorem State.setMarker_tracker (v : Option Stamp) : (s.setMarker v).tracker = s.tracker := rfl
@[simp] theorem State.setMarker_evaluator (v : Option Stamp) : (s.setMarker v).evaluator = s.evaluator := rfl
@[simp] theorem State.setMarker_tables (v : Option Stamp) : (s.setMarker v).tables = s.tables := rfl
@[simp] theorem State.setMarker_interval (v : Option Stamp) : (s.setMarker v).interval = s.interval := rfl
@[simp] theorem State.setMarker_link (v : Option Stamp) : (s.setMarker v).link = s.link := rfl
@[simp] theorem State.setMarker_marker (v : Option Stamp) : (s.setMarker v).marker = v := rfl
@[simp] theorem State.setMarker_agent (v : Option Stamp) : (s.setMarker v).agent = s.agent := rfl
@[simp] theorem State.setMarker_attention (v : Option Stamp) : (s.setMarker v).attention = s.attention := rfl
@[simp] theorem State.setMarker_pins (v : Option Stamp) : (s.setMarker v).pins = s.pins := rfl
@[simp] theorem State.setMarker_optionBlock (v : Option Stamp) : (s.setMarker v).optionBlock = s.optionBlock := rfl
@[simp] theorem State.setMarker_draws (v : Option Stamp) : (s.setMarker v).draws = s.draws := rfl
@[simp] theorem State.setMarker_pending (v : Option Stamp) : (s.setMarker v).pending = s.pending := rfl
@[simp] theorem State.setAgent_scan (v : Agent) : (s.setAgent v).scan = s.scan := rfl
@[simp] theorem State.setAgent_position (v : Agent) : (s.setAgent v).position = s.position := rfl
@[simp] theorem State.setAgent_watches (v : Agent) : (s.setAgent v).watches = s.watches := rfl
@[simp] theorem State.setAgent_settings (v : Agent) : (s.setAgent v).settings = s.settings := rfl
@[simp] theorem State.setAgent_tracker (v : Agent) : (s.setAgent v).tracker = s.tracker := rfl
@[simp] theorem State.setAgent_evaluator (v : Agent) : (s.setAgent v).evaluator = s.evaluator := rfl
@[simp] theorem State.setAgent_tables (v : Agent) : (s.setAgent v).tables = s.tables := rfl
@[simp] theorem State.setAgent_interval (v : Agent) : (s.setAgent v).interval = s.interval := rfl
@[simp] theorem State.setAgent_link (v : Agent) : (s.setAgent v).link = s.link := rfl
@[simp] theorem State.setAgent_marker (v : Agent) : (s.setAgent v).marker = s.marker := rfl
@[simp] theorem State.setAgent_agent (v : Agent) : (s.setAgent v).agent = v := rfl
@[simp] theorem State.setAgent_attention (v : Agent) : (s.setAgent v).attention = s.attention := rfl
@[simp] theorem State.setAgent_pins (v : Agent) : (s.setAgent v).pins = s.pins := rfl
@[simp] theorem State.setAgent_optionBlock (v : Agent) : (s.setAgent v).optionBlock = s.optionBlock := rfl
@[simp] theorem State.setAgent_draws (v : Agent) : (s.setAgent v).draws = s.draws := rfl
@[simp] theorem State.setAgent_pending (v : Agent) : (s.setAgent v).pending = s.pending := rfl
@[simp] theorem State.setAttention_scan (v : Attention) : (s.setAttention v).scan = s.scan := rfl
@[simp] theorem State.setAttention_position (v : Attention) : (s.setAttention v).position = s.position := rfl
@[simp] theorem State.setAttention_watches (v : Attention) : (s.setAttention v).watches = s.watches := rfl
@[simp] theorem State.setAttention_settings (v : Attention) : (s.setAttention v).settings = s.settings := rfl
@[simp] theorem State.setAttention_tracker (v : Attention) : (s.setAttention v).tracker = s.tracker := rfl
@[simp] theorem State.setAttention_evaluator (v : Attention) : (s.setAttention v).evaluator = s.evaluator := rfl
@[simp] theorem State.setAttention_tables (v : Attention) : (s.setAttention v).tables = s.tables := rfl
@[simp] theorem State.setAttention_interval (v : Attention) : (s.setAttention v).interval = s.interval := rfl
@[simp] theorem State.setAttention_link (v : Attention) : (s.setAttention v).link = s.link := rfl
@[simp] theorem State.setAttention_marker (v : Attention) : (s.setAttention v).marker = s.marker := rfl
@[simp] theorem State.setAttention_agent (v : Attention) : (s.setAttention v).agent = s.agent := rfl
@[simp] theorem State.setAttention_attention (v : Attention) : (s.setAttention v).attention = v := rfl
@[simp] theorem State.setAttention_pins (v : Attention) : (s.setAttention v).pins = s.pins := rfl
@[simp] theorem State.setAttention_optionBlock (v : Attention) : (s.setAttention v).optionBlock = s.optionBlock := rfl
@[simp] theorem State.setAttention_draws (v : Attention) : (s.setAttention v).draws = s.draws := rfl
@[simp] theorem State.setAttention_pending (v : Attention) : (s.setAttention v).pending = s.pending := rfl
@[simp] theorem State.setPins_scan (v : Pins) : (s.setPins v).scan = s.scan := rfl
@[simp] theorem State.setPins_position (v : Pins) : (s.setPins v).position = s.position := rfl
@[simp] theorem State.setPins_watches (v : Pins) : (s.setPins v).watches = s.watches := rfl
@[simp] theorem State.setPins_settings (v : Pins) : (s.setPins v).settings = s.settings := rfl
@[simp] theorem State.setPins_tracker (v : Pins) : (s.setPins v).tracker = s.tracker := rfl
@[simp] theorem State.setPins_evaluator (v : Pins) : (s.setPins v).evaluator = s.evaluator := rfl
@[simp] theorem State.setPins_tables (v : Pins) : (s.setPins v).tables = s.tables := rfl
@[simp] theorem State.setPins_interval (v : Pins) : (s.setPins v).interval = s.interval := rfl
@[simp] theorem State.setPins_link (v : Pins) : (s.setPins v).link = s.link := rfl
@[simp] theorem State.setPins_marker (v : Pins) : (s.setPins v).marker = s.marker := rfl
@[simp] theorem State.setPins_agent (v : Pins) : (s.setPins v).agent = s.agent := rfl
@[simp] theorem State.setPins_attention (v : Pins) : (s.setPins v).attention = s.attention := rfl
@[simp] theorem State.setPins_pins (v : Pins) : (s.setPins v).pins = v := rfl
@[simp] theorem State.setPins_optionBlock (v : Pins) : (s.setPins v).optionBlock = s.optionBlock := rfl
@[simp] theorem State.setPins_draws (v : Pins) : (s.setPins v).draws = s.draws := rfl
@[simp] theorem State.setPins_pending (v : Pins) : (s.setPins v).pending = s.pending := rfl
@[simp] theorem State.setOptionBlock_scan (v : OptionBlock) : (s.setOptionBlock v).scan = s.scan := rfl
@[simp] theorem State.setOptionBlock_position (v : OptionBlock) : (s.setOptionBlock v).position = s.position := rfl
@[simp] theorem State.setOptionBlock_watches (v : OptionBlock) : (s.setOptionBlock v).watches = s.watches := rfl
@[simp] theorem State.setOptionBlock_settings (v : OptionBlock) : (s.setOptionBlock v).settings = s.settings := rfl
@[simp] theorem State.setOptionBlock_tracker (v : OptionBlock) : (s.setOptionBlock v).tracker = s.tracker := rfl
@[simp] theorem State.setOptionBlock_evaluator (v : OptionBlock) : (s.setOptionBlock v).evaluator = s.evaluator := rfl
@[simp] theorem State.setOptionBlock_tables (v : OptionBlock) : (s.setOptionBlock v).tables = s.tables := rfl
@[simp] theorem State.setOptionBlock_interval (v : OptionBlock) : (s.setOptionBlock v).interval = s.interval := rfl
@[simp] theorem State.setOptionBlock_link (v : OptionBlock) : (s.setOptionBlock v).link = s.link := rfl
@[simp] theorem State.setOptionBlock_marker (v : OptionBlock) : (s.setOptionBlock v).marker = s.marker := rfl
@[simp] theorem State.setOptionBlock_agent (v : OptionBlock) : (s.setOptionBlock v).agent = s.agent := rfl
@[simp] theorem State.setOptionBlock_attention (v : OptionBlock) : (s.setOptionBlock v).attention = s.attention := rfl
@[simp] theorem State.setOptionBlock_pins (v : OptionBlock) : (s.setOptionBlock v).pins = s.pins := rfl
@[simp] theorem State.setOptionBlock_optionBlock (v : OptionBlock) : (s.setOptionBlock v).optionBlock = v := rfl
@[simp] theorem State.setOptionBlock_draws (v : OptionBlock) : (s.setOptionBlock v).draws = s.draws := rfl
@[simp] theorem State.setOptionBlock_pending (v : OptionBlock) : (s.setOptionBlock v).pending = s.pending := rfl
@[simp] theorem State.setDraws_scan (v : Nat) : (s.setDraws v).scan = s.scan := rfl
@[simp] theorem State.setDraws_position (v : Nat) : (s.setDraws v).position = s.position := rfl
@[simp] theorem State.setDraws_watches (v : Nat) : (s.setDraws v).watches = s.watches := rfl
@[simp] theorem State.setDraws_settings (v : Nat) : (s.setDraws v).settings = s.settings := rfl
@[simp] theorem State.setDraws_tracker (v : Nat) : (s.setDraws v).tracker = s.tracker := rfl
@[simp] theorem State.setDraws_evaluator (v : Nat) : (s.setDraws v).evaluator = s.evaluator := rfl
@[simp] theorem State.setDraws_tables (v : Nat) : (s.setDraws v).tables = s.tables := rfl
@[simp] theorem State.setDraws_interval (v : Nat) : (s.setDraws v).interval = s.interval := rfl
@[simp] theorem State.setDraws_link (v : Nat) : (s.setDraws v).link = s.link := rfl
@[simp] theorem State.setDraws_marker (v : Nat) : (s.setDraws v).marker = s.marker := rfl
@[simp] theorem State.setDraws_agent (v : Nat) : (s.setDraws v).agent = s.agent := rfl
@[simp] theorem State.setDraws_attention (v : Nat) : (s.setDraws v).attention = s.attention := rfl
@[simp] theorem State.setDraws_pins (v : Nat) : (s.setDraws v).pins = s.pins := rfl
@[simp] theorem State.setDraws_optionBlock (v : Nat) : (s.setDraws v).optionBlock = s.optionBlock := rfl
@[simp] theorem State.setDraws_draws (v : Nat) : (s.setDraws v).draws = v := rfl
@[simp] theorem State.setDraws_pending (v : Nat) : (s.setDraws v).pending = s.pending := rfl
@[simp] theorem State.setPending_scan (v : List Instr) : (s.setPending v).scan = s.scan := rfl
@[simp] theorem State.setPending_position (v : List Instr) : (s.setPending v).position = s.position := rfl
@[simp] theorem State.setPending_watches (v : List Instr) : (s.setPending v).watches = s.watches := rfl
@[simp] theorem State.setPending_settings (v : List Instr) : (s.setPending v).settings = s.settings := rfl
@[simp] theorem State.setPending_tracker (v : List Instr) : (s.setPending v).tracker = s.tracker := rfl
@[simp] theorem State.setPending_evaluator (v : List Instr) : (s.setPending v).evaluator = s.evaluator := rfl
@[simp] theorem State.setPending_tables (v : List Instr) : (s.setPending v).tables = s.tables := rfl
@[simp] theorem State.setPending_interval (v : List Instr) : (s.setPending v).interval = s.interval := rfl
@[simp] theorem State.setPending_link (v : List Instr) : (s.setPending v).link = s.link := rfl
@[simp] theorem State.setPending_marker (v : List Instr) : (s.setPending v).marker = s.marker := rfl
@[simp] theorem State.setPending_agent (v : List Instr) : (s.setPending v).agent = s.agent := rfl
@[simp] theorem State.setPending_attention (v : List Instr) : (s.setPending v).attention = s.attention := rfl
@[simp] theorem State.setPending_pins (v : List Instr) : (s.setPending v).pins = s.pins := rfl
@[simp] theorem State.setPending_optionBlock (v : List Instr) : (s.setPending v).optionBlock = s.optionBlock := rfl
@[simp] theorem State.setPending_draws (v : List Instr) : (s.setPending v).draws = s.draws := rfl
@[simp] theorem State.setPending_pending (v : List Instr) : (s.setPending v).pending = v := rfl

end Sys2Proof.Machine
end

