-- ==== Sys2Proof/Laws/Frame.lean ====
section
/-! SUPPORT. What each shared operation can change: `Only W s t` says that `t` differs from `s` in the parts named in `W`
at most, and each operation has one lemma that names its parts. -/
namespace Sys2Proof.Machine

/-- The parts of State an operation may change. -/
inductive Part where
  | scan | rejected | position | watches | settings | entries | tags | holdings | tagCounter | blind | evaluator | banks | copyInFlight | active
  | commitPending | holds | interval | link | marker | mode | lineTest | copyReply | options | flags | grades | startup | pins | optionBlock | draws | pending
  deriving DecidableEq, Repr

/-- Tag, bank and hold of each entry, oldest first. -/
def holdingsOf (s : State) : List (Tag × BankId × Bool) := s.tracker.sheets.map fun e => (e.tag, e.bank, e.holding)

/-- An update of an entry that leaves its tag, its bank and its hold. -/
def keepsHold (f : Entry → Entry) : Prop := ∀ e, (f e).tag = e.tag ∧ (f e).bank = e.bank ∧ (f e).holding = e.holding

/-- The two states agree on every part that is not named. -/
structure Only (W : List Part) (s t : State) : Prop where
  scan : .scan ∈ W ∨ t.scan = s.scan
  rejected : .rejected ∈ W ∨ t.scan.rejected = s.scan.rejected
  position : .position ∈ W ∨ t.position = s.position
  watches : .watches ∈ W ∨ t.watches = s.watches
  settings : .settings ∈ W ∨ t.settings = s.settings
  entries : .entries ∈ W ∨ t.tracker.sheets = s.tracker.sheets
  tags : .tags ∈ W ∨ t.tracker.sheets.map (·.tag) = s.tracker.sheets.map (·.tag)
  holdings : .holdings ∈ W ∨ holdingsOf t = holdingsOf s
  tagCounter : .tagCounter ∈ W ∨ t.tracker.tagCounter = s.tracker.tagCounter
  blind : .blind ∈ W ∨ t.tracker.blind = s.tracker.blind
  evaluator : .evaluator ∈ W ∨ t.evaluator = s.evaluator
  banks : .banks ∈ W ∨ (t.tables.bank0 = s.tables.bank0 ∧ t.tables.bank1 = s.tables.bank1)
  copyInFlight : .copyInFlight ∈ W ∨ t.tables.copyInFlight = s.tables.copyInFlight
  active : .active ∈ W ∨ (t.tables.active = s.tables.active ∧ t.tables.generation = s.tables.generation)
  commitPending : .commitPending ∈ W ∨ t.tables.commitPending = s.tables.commitPending
  holds : .holds ∈ W ∨ (t.tables.holders0 = s.tables.holders0 ∧ t.tables.holders1 = s.tables.holders1 ∧
    t.tables.otherState = s.tables.otherState)
  interval : .interval ∈ W ∨ t.interval = s.interval
  link : .link ∈ W ∨ t.link = s.link
  marker : .marker ∈ W ∨ t.marker = s.marker
  mode : .mode ∈ W ∨ t.agent.mode = s.agent.mode
  lineTest : .lineTest ∈ W ∨ t.agent.lineTest = s.agent.lineTest
  copyReply : .copyReply ∈ W ∨ t.agent.copyReply = s.agent.copyReply
  options : .options ∈ W ∨ (t.agent.station = s.agent.station ∧ t.agent.groupResponder = s.agent.groupResponder ∧
    t.agent.protect = s.agent.protect)
  flags : .flags ∈ W ∨ t.attention.flags = s.attention.flags
  grades : .grades ∈ W ∨ t.attention.grades = s.attention.grades
  startup : .startup ∈ W ∨ t.attention.startup = s.attention.startup
  pins : .pins ∈ W ∨ t.pins = s.pins
  optionBlock : .optionBlock ∈ W ∨ t.optionBlock = s.optionBlock
  draws : .draws ∈ W ∨ t.draws = s.draws
  pending : .pending ∈ W ∨ t.pending = s.pending

theorem Only.refl (W : List Part) (s : State) : Only W s s := by
  constructor <;> first | exact .inr rfl | exact .inr ⟨rfl, rfl⟩ | exact .inr ⟨rfl, rfl, rfl⟩

theorem Only.trans {W : List Part} {s t u : State} (h : Only W s t) (k : Only W t u) : Only W s u := by
  constructor
  all_goals
    first
    | exact h.scan.elim .inl fun a => k.scan.imp id (·.trans a)
    | exact h.rejected.elim .inl fun a => k.rejected.imp id (·.trans a)
    | exact h.position.elim .inl fun a => k.position.imp id (·.trans a)
    | exact h.watches.elim .inl fun a => k.watches.imp id (·.trans a)
    | exact h.settings.elim .inl fun a => k.settings.imp id (·.trans a)
    | exact h.entries.elim .inl fun a => k.entries.imp id (·.trans a)
    | exact h.tags.elim .inl fun a => k.tags.imp id (·.trans a)
    | exact h.holdings.elim .inl fun a => k.holdings.imp id (·.trans a)
    | exact h.tagCounter.elim .inl fun a => k.tagCounter.imp id (·.trans a)
    | exact h.blind.elim .inl fun a => k.blind.imp id (·.trans a)
    | exact h.evaluator.elim .inl fun a => k.evaluator.imp id (·.trans a)
    | exact h.banks.elim .inl fun ⟨a, b⟩ => k.banks.imp id fun ⟨x, y⟩ => ⟨x.trans a, y.trans b⟩
    | exact h.copyInFlight.elim .inl fun a => k.copyInFlight.imp id (·.trans a)
    | exact h.active.elim .inl fun ⟨a, b⟩ => k.active.imp id fun ⟨x, y⟩ => ⟨x.trans a, y.trans b⟩
    | exact h.commitPending.elim .inl fun a => k.commitPending.imp id (·.trans a)
    | exact h.holds.elim .inl fun ⟨a, b, c⟩ => k.holds.imp id fun ⟨x, y, z⟩ => ⟨x.trans a, y.trans b, z.trans c⟩
    | exact h.interval.elim .inl fun a => k.interval.imp id (·.trans a)
    | exact h.link.elim .inl fun a => k.link.imp id (·.trans a)
    | exact h.marker.elim .inl fun a => k.marker.imp id (·.trans a)
    | exact h.mode.elim .inl fun a => k.mode.imp id (·.trans a)
    | exact h.lineTest.elim .inl fun a => k.lineTest.imp id (·.trans a)
    | exact h.copyReply.elim .inl fun a => k.copyReply.imp id (·.trans a)
    | exact h.options.elim .inl fun ⟨a, b, c⟩ => k.options.imp id fun ⟨x, y, z⟩ => ⟨x.trans a, y.trans b, z.trans c⟩
    | exact h.flags.elim .inl fun a => k.flags.imp id (·.trans a)
    | exact h.grades.elim .inl fun a => k.grades.imp id (·.trans a)
    | exact h.startup.elim .inl fun a => k.startup.imp id (·.trans a)
    | exact h.pins.elim .inl fun a => k.pins.imp id (·.trans a)
    | exact h.optionBlock.elim .inl fun a => k.optionBlock.imp id (·.trans a)
    | exact h.draws.elim .inl fun a => k.draws.imp id (·.trans a)
    | exact h.pending.elim .inl fun a => k.pending.imp id (·.trans a)

/-- More parts may be named. -/
theorem Only.mono {V W : List Part} {s t : State} (h : Only V s t) (sub : (V.all fun p => W.contains p) = true) :
    Only W s t := by
  have up : ∀ p, p ∈ V → p ∈ W := fun p hp => by simpa using List.all_eq_true.mp sub p hp
  exact ⟨h.scan.imp (up _) id, h.rejected.imp (up _) id, h.position.imp (up _) id, h.watches.imp (up _) id,
    h.settings.imp (up _) id, h.entries.imp (up _) id, h.tags.imp (up _) id, h.holdings.imp (up _) id, h.tagCounter.imp (up _) id,
    h.blind.imp (up _) id, h.evaluator.imp (up _) id, h.banks.imp (up _) id, h.copyInFlight.imp (up _) id,
    h.active.imp (up _) id, h.commitPending.imp (up _) id, h.holds.imp (up _) id, h.interval.imp (up _) id,
    h.link.imp (up _) id, h.marker.imp (up _) id, h.mode.imp (up _) id, h.lineTest.imp (up _) id,
    h.copyReply.imp (up _) id, h.options.imp (up _) id, h.flags.imp (up _) id, h.grades.imp (up _) id,
    h.startup.imp (up _) id, h.pins.imp (up _) id, h.optionBlock.imp (up _) id, h.draws.imp (up _) id,
    h.pending.imp (up _) id⟩

/-- An operation run after another one. -/
theorem Only.seq {V W : List Part} {s t u : State} (h : Only W s t) (k : Only V t u)
    (sub : (V.all fun p => W.contains p) = true) : Only W s u :=
  h.trans (k.mono sub)

/-- The last operation first: what it may change, and what ran before it. -/
theorem Only.via {V W : List Part} {s t u : State} (k : Only V t u)
    (sub : (V.all fun p => W.contains p) = true) (h : Only W s t) : Only W s u :=
  h.seq k sub

theorem only_withEntry {W : List Part} {tag : Tag} {f : Entry → State → State} {s : State}
    (h : ∀ e s, Only W s (f e s)) : Only W s (withEntry tag f s) := by
  unfold withEntry; split
  · exact h _ _
  · exact Only.refl ..

theorem only_foldl {α : Type} {W : List Part} {f : State → α → State} (h : ∀ s a, Only W s (f s a)) :
    ∀ (l : List α) (s : State), Only W s (l.foldl f s)
  | [], _ => Only.refl ..
  | a :: l, s => (h s a).trans (only_foldl h l _)

/-! ### Parts by kind of operation -/

/-- What raising a flag may change: an ALERT record may be placed, and a waiting ROUTE record may begin sending. -/
abbrev raiseParts : List Part := [.entries, .watches, .link, .flags]
/-- What a decision, a mark or a close may change. -/
abbrev decideParts : List Part := [.entries, .holdings, .watches, .link, .flags, .evaluator, .holds]
/-- What the Blind Span's operations may change besides. -/
abbrev blindParts : List Part := [.entries, .holdings, .watches, .link, .flags, .evaluator, .holds, .blind, .interval]
/-- What the opening of a sheet may change besides. -/
abbrev openParts : List Part :=
  [.entries, .holdings, .watches, .link, .flags, .evaluator, .holds, .blind, .interval, .tags, .tagCounter, .active,
   .commitPending]
/-- What a retirement may change. -/
abbrev retireParts : List Part :=
  [.entries, .holdings, .watches, .link, .flags, .evaluator, .holds, .tags, .active, .commitPending, .grades, .marker,
   .mode]
/-- What the taking of any watched position may change. -/
abbrev takeParts : List Part :=
  [.scan, .entries, .holdings, .watches, .link, .flags, .evaluator, .holds, .blind, .interval, .tags, .active, .commitPending,
   .grades, .marker, .mode]

/-! ### Machine/Ops.lean -/

theorem arm_only (c : Ctx) (k : WatchKind) (p : Position) (s : State) : Only [.watches] s (arm c k p s) := by
  constructor <;> simp [holdingsOf, arm]
theorem disarm_only (k : WatchKind) (s : State) : Only [.watches] s (disarm k s) := by constructor <;> simp [holdingsOf, disarm]
theorem disarmFirst_only (k : WatchKind) (p : Position) (s : State) : Only [.watches] s (disarmFirst k p s) := by
  constructor <;> simp [holdingsOf, disarmFirst]
theorem disarmTag_only (tag : Tag) (s : State) : Only [.watches] s (disarmTag tag s) := by
  constructor <;> simp [holdingsOf, disarmTag]
theorem dropWatch_only (w : Watch) (s : State) : Only [.watches] s (dropWatch w s) := by
  constructor <;> simp [holdingsOf, dropWatch]
theorem setMode_only (m : Mode) (s : State) : Only [.mode] s (setMode m s) := by constructor <;> simp [holdingsOf, setMode]

/-- An update of an entry that keeps its tag. -/
theorem modifyEntry_only (tag : Tag) (f : Entry → Entry) (s : State) (h : keepsHold f) :
    Only [.entries] s (modifyEntry tag f s) := by
  constructor <;> try simp [modifyEntry]
  · intro e _; split <;> simp [(h _).1]
  · simp only [holdingsOf, State.setTracker_tracker, List.map_map]
    refine List.map_congr_left fun e _ => ?_
    have k := h e
    simp only [Function.comp]; split <;> simp [k]

/-! ### Machine/Flags.lean -/

theorem enqueue_only (r : OutRecord) (s : State) : Only [.link] s (enqueue r s) := by constructor <;> simp [holdingsOf, enqueue]
theorem setFlag_only (f : Flag) (s : State) : Only [.flags] s (setFlag f s) := by constructor <;> simp [holdingsOf, setFlag]
theorem clearFlagCode_only (n : Nat) (s : State) : Only [.flags] s (clearFlagCode n s) := by
  constructor <;> simp [holdingsOf, clearFlagCode]

theorem routeSent_only (r : OutRecord) (s : State) : Only [.entries, .watches] s (routeSent r s) := by
  unfold routeSent; split
  · exact .via (disarm_only ..) rfl (.via (modifyEntry_only _ _ _ fun _ => ⟨rfl, rfl, rfl⟩) rfl (.refl ..))
  · exact Only.refl ..

theorem setLink_only (s : State) (l : Link) : Only [.link] s (s.setLink l) := by constructor <;> simp [holdingsOf]

theorem tryBegin_only (s : State) : Only [.entries, .watches, .link] s (tryBegin s) := by
  unfold tryBegin; split
  · exact .via (routeSent_only ..) rfl (.via (setLink_only ..) rfl (.refl ..))
  · exact Only.refl ..

theorem place_only (r : OutRecord) (s : State) : Only [.entries, .watches, .link] s (place r s) :=
  .via (tryBegin_only _) rfl (.via (enqueue_only r s) rfl (.refl ..))

theorem offer_only (r : OutRecord) (s : State) : Only raiseParts s (offer r s) := by
  unfold offer; split
  · exact .via (place_only ..) rfl (.refl ..)
  · exact .via (setFlag_only ..) rfl (.refl ..)

theorem raise_only (c : Ctx) (f : Flag) (s : State) : Only raiseParts s (raise c f s) := by
  unfold raise; split
  · exact Only.refl ..
  · dsimp only; split
    · exact .via (offer_only ..) rfl (.via (setFlag_only ..) rfl (.refl ..))
    · exact .via (setFlag_only ..) rfl (.refl ..)

/-! ### Machine/Tables.lean -/

theorem setHolders_only (s : State) (id : BankId) (n : Nat) :
    Only [.holds] s (s.setTables (s.tables.setHolders id n)) := by
  cases id <;> constructor <;> simp [holdingsOf, TableStore.setHolders]

theorem releaseBank_only (c : Ctx) (s : State) : Only (.holds :: raiseParts) s (releaseBank c s) := by
  unfold releaseBank; split
  · refine Only.seq (t := s.setTables { s.tables with otherState := .staging }) ?_ (raise_only ..) rfl
    constructor <;> simp [holdingsOf]
  · exact Only.refl ..

theorem releaseHold_only (c : Ctx) (id : BankId) (s : State) : Only (.holds :: raiseParts) s (releaseHold c id s) := by
  unfold releaseHold; dsimp only; split
  · exact .via (setHolders_only ..) rfl (.refl ..)
  · exact .via (releaseBank_only ..) rfl (.via (setHolders_only ..) rfl (.refl ..))

theorem endHold_only (c : Ctx) (tag : Tag) (s : State) : Only (.holds :: .holdings :: raiseParts) s (endHold c tag s) := by
  unfold endHold; refine only_withEntry fun e s => ?_
  split
  · refine .via (releaseHold_only ..) rfl ?_
    constructor <;> simp [modifyEntry]
    intro e _; split <;> rfl
  · exact Only.refl ..

theorem commitEffect_only (c : Ctx) (s : State) : Only (.holds :: .active :: .commitPending :: raiseParts) s (commitEffect c s) := by
  refine Only.seq (t := s.setTables _) ?_ (raise_only ..) rfl
  constructor <;> simp [holdingsOf]

theorem commitIfPending_only (c : Ctx) (s : State) :
    Only (.holds :: .active :: .commitPending :: raiseParts) s (commitIfPending c s) := by
  unfold commitIfPending; split
  · exact commitEffect_only ..
  · exact Only.refl ..

theorem commitIfQueueEmpty_only (c : Ctx) (s : State) :
    Only (.holds :: .active :: .commitPending :: raiseParts) s (commitIfQueueEmpty c s) := by
  unfold commitIfQueueEmpty; split
  · exact commitIfPending_only ..
  · exact Only.refl ..

theorem completeCopy_only (s : State) : Only (.banks :: .copyInFlight :: .copyReply :: raiseParts) s (completeCopy s) := by
  unfold completeCopy; split
  · have h : Only (.banks :: .copyInFlight :: .copyReply :: raiseParts) s
        ((s.setTables { s.tables.setBank s.tables.other (s.tables.bank s.tables.active) with
          copyInFlight := false }).setAgent { s.agent with copyReply := none }) := by
      cases h : s.tables.other <;> constructor <;> simp [holdingsOf, TableStore.setBank]
    dsimp only; split
    · split
      · exact .via (offer_only ..) rfl h
      · exact h
    · exact h
  · exact Only.refl ..

theorem flushTables_only (c : Ctx) (s : State) : Only (.holds :: .active :: .commitPending :: raiseParts) s (flushTables c s) := by
  have h : Only (.holds :: .active :: .commitPending :: raiseParts) s
      (s.setTables { s.tables with holders0 := 0, holders1 := 0 }) := by constructor <;> simp [holdingsOf]
  exact .via (commitIfPending_only ..) rfl (.via (releaseBank_only ..) rfl h)

/-! ### Machine/Routing.lean -/

theorem routeDecided_only (c : Ctx) (tag : Tag) (s : State) : Only [.watches] s (routeDecided c tag s) := by
  unfold routeDecided; refine only_withEntry fun e s => ?_
  split
  · split
    · exact .via (arm_only ..) rfl (.via (disarm_only ..) rfl (.refl ..))
    · exact Only.refl ..
  · exact Only.refl ..

theorem divertEntry_only (c : Ctx) (tag : Tag) (s : State) : Only raiseParts s (divertEntry c tag s) := by
  unfold divertEntry; refine only_withEntry fun e s => ?_
  exact .via (raise_only ..) rfl (.via (arm_only ..) rfl (.via (arm_only ..) rfl (.via (modifyEntry_only _ _ _ fun _ => ⟨rfl, rfl, rfl⟩) rfl (.refl ..))))

theorem withdraw_only (tag : Tag) (s : State) : Only [.link] s (withdraw tag s) := by constructor <;> simp [holdingsOf, withdraw]

theorem firePoint_only (tag : Tag) (w : Watch) (s : State) : Only raiseParts s (firePoint tag w s) := by
  unfold firePoint; refine only_withEntry fun e s => ?_
  split
  · split
    · split
      · exact .via (tryBegin_only _) rfl (.via (arm_only ..) rfl (.via (modifyEntry_only _ _ _ fun _ => ⟨rfl, rfl, rfl⟩) rfl (.via (enqueue_only ..) rfl (.refl ..))))
      · exact divertEntry_only ..
    · exact Only.refl ..
  · exact Only.refl ..

theorem staleExpiry_only (tag : Tag) (w : Watch) (s : State) : Only raiseParts s (staleExpiry tag w s) := by
  unfold staleExpiry; refine only_withEntry fun e s => ?_
  split
  · exact .via (divertEntry_only ..) rfl (.via (modifyEntry_only _ _ _ fun _ => ⟨rfl, rfl, rfl⟩) rfl (.via (withdraw_only ..) rfl (.refl ..)))
  · exact Only.refl ..

theorem windowOpening_only (tag : Tag) (w : Watch) (s : State) : Only [.entries] s (windowOpening tag w s) :=
  modifyEntry_only _ _ _ fun e => by split <;> exact ⟨rfl, rfl, rfl⟩
theorem windowClosing_only (tag : Tag) (w : Watch) (s : State) : Only [.entries] s (windowClosing tag w s) :=
  modifyEntry_only _ _ _ fun _ => ⟨rfl, rfl, rfl⟩

theorem setInterval_only (s : State) (v : Interval) : Only [.interval] s (s.setInterval v) := by constructor <;> simp [holdingsOf]

theorem intervalCreated_only (c : Ctx) (p : Position) (s : State) :
    Only [.watches, .interval] s (intervalCreated c p s) :=
  .via (arm_only ..) rfl (.via (disarm_only ..) rfl (.via (disarm_only ..) rfl (.via (setInterval_only ..) rfl (.refl ..))))
theorem intervalUnsealed_only (s : State) : Only [.watches, .interval] s (intervalUnsealed s) :=
  .via (disarm_only ..) rfl (.via (setInterval_only ..) rfl (.refl ..))
theorem intervalSealed_only (c : Ctx) (p : Position) (s : State) :
    Only [.watches, .interval] s (intervalSealed c p s) :=
  .via (arm_only ..) rfl (.via (disarm_only ..) rfl (.via (setInterval_only ..) rfl (.refl ..)))
theorem intervalEnds_only (s : State) : Only [.watches, .interval] s (intervalEnds s) :=
  .via (disarm_only ..) rfl (.via (disarm_only ..) rfl (.via (setInterval_only ..) rfl (.refl ..)))
theorem intervalOpening_only (w : Watch) (s : State) : Only [.watches, .interval] s (intervalOpening w s) := by
  unfold intervalOpening; split
  · exact .via (setInterval_only ..) rfl (.refl ..)
  · exact Only.refl ..

theorem routeRetired_only (c : Ctx) (e : Entry) (s : State) : Only raiseParts s (routeRetired c e s) := by
  unfold routeRetired; split
  · exact .via (raise_only ..) rfl (.via (withdraw_only ..) rfl (.refl ..))
  · split
    · exact raise_only ..
    · exact Only.refl ..

theorem flushRoute_only (s : State) : Only [.link, .watches, .interval] s (flushRoute s) :=
  .via (intervalEnds_only _) rfl (.via (setLink_only ..) rfl (.refl ..))

theorem setReady_only (b : Bool) (s : State) : Only [.pins] s (setReady b s) := by constructor <;> simp [holdingsOf, setReady]

theorem completeSending_only (b : Bool) (s : State) :
    Only [.pins, .entries, .watches, .link] s (completeSending b s) := by
  unfold completeSending; split
  · exact .via (tryBegin_only _) rfl (.via (setReady_only ..) rfl (.via (setLink_only ..) rfl (.refl ..)))
  · exact Only.refl ..

/-! ### Machine/Marking.lean -/

theorem markerDecided_only (c : Ctx) (tag : Tag) (first : Bool) (s : State) :
    Only [.watches] s (markerDecided c tag first s) := by
  unfold markerDecided; split
  · exact only_withEntry fun e s => arm_only ..
  · exact Only.refl ..

theorem setMarker_only (s : State) (v : Option Stamp) : Only [.marker] s (s.setMarker v) := by constructor <;> simp [holdingsOf]

theorem stampStart_only (tag : Tag) (w : Watch) (s : State) : Only (.marker :: raiseParts) s (stampStart tag w s) := by
  unfold stampStart; refine only_withEntry fun e s => ?_
  split
  · exact .via (modifyEntry_only _ _ _ fun _ => ⟨rfl, rfl, rfl⟩) rfl (.refl ..)
  · split
    · split
      · exact Only.refl ..
      · exact .via (raise_only ..) rfl (.via (modifyEntry_only _ _ _ fun _ => ⟨rfl, rfl, rfl⟩) rfl (.refl ..))
      · exact .via (arm_only ..) rfl (.via (setMarker_only ..) rfl (.refl ..))
    · exact Only.refl ..

theorem dotEnd_only (w : Watch) (s : State) : Only [.marker, .watches] s (dotEnd w s) := by
  unfold dotEnd; split
  · split
    · exact .via (setMarker_only ..) rfl (.refl ..)
    · exact .via (arm_only ..) rfl (.via (setMarker_only ..) rfl (.refl ..))
  · exact Only.refl ..

theorem nextRow_only (w : Watch) (s : State) : Only [.marker, .watches] s (nextRow w s) := by
  unfold nextRow; split
  · exact .via (arm_only ..) rfl (.via (setMarker_only ..) rfl (.refl ..))
  · exact Only.refl ..

theorem endStamp_only (s : State) : Only [.marker, .watches] s (endStamp s) :=
  .via (disarm_only ..) rfl (.via (disarm_only ..) rfl (.via (setMarker_only ..) rfl (.refl ..)))

theorem markerRetired_only (tag : Tag) (s : State) : Only [.marker, .watches] s (markerRetired tag s) := by
  unfold markerRetired; split
  · split
    · exact endStamp_only _
    · exact Only.refl ..
  · exact Only.refl ..

/-! ### Machine/Deciding.lean -/

theorem unlist_only (tag : Tag) (s : State) : Only [.evaluator] s (unlist tag s) := by constructor <;> simp [holdingsOf, unlist]

theorem decideAs_only (c : Ctx) (d : Decision) (tag : Tag) (e : Entry) (s : State) :
    Only [.entries, .evaluator, .watches] s (decideAs c d tag e s) :=
  .via (markerDecided_only ..) rfl (.via (routeDecided_only ..) rfl (.via (unlist_only ..) rfl (.via (modifyEntry_only _ _ _ fun _ => ⟨rfl, rfl, rfl⟩) rfl (.refl ..))))

theorem decideEntry_only (c : Ctx) (src : DecisionSource) (tag : Tag) (s : State) :
    Only [.entries, .evaluator, .watches] s (decideEntry c src tag s) := by
  unfold decideEntry; exact only_withEntry fun e s => decideAs_only ..

theorem flagSuspect_only (own : EntryFlags → EntryFlags) (tag : Tag) (s : State) :
    Only [.entries] s (flagSuspect own tag s) := modifyEntry_only _ _ _ fun _ => ⟨rfl, rfl, rfl⟩

theorem markSuspect_only (c : Ctx) (own : EntryFlags → EntryFlags) (tag : Tag) (s : State) :
    Only decideParts s (markSuspect c own tag s) := by
  unfold markSuspect; refine only_withEntry fun e s => ?_
  have h : Only decideParts s (flagSuspect own tag s) := .via (flagSuspect_only ..) rfl (.refl ..)
  dsimp only; split
  · exact h
  · split
    · exact .via (endHold_only ..) rfl (.via (decideEntry_only ..) rfl h)
    · split
      · exact .via (decideAs_only ..) rfl h
      · exact h

theorem markAll_only (c : Ctx) (own : EntryFlags → EntryFlags) (tags : List Tag) (s : State) :
    Only decideParts s (markAll c own tags s) := only_foldl (fun s tag => markSuspect_only c own tag s) _ _
theorem frameGapNotice_only (c : Ctx) (s : State) : Only decideParts s (frameGapNotice c s) := markAll_only ..
theorem reversalNotice_only (c : Ctx) (s : State) : Only decideParts s (reversalNotice c s) := markAll_only ..

/-! ### Machine/Classification.lean and Machine/Moisture.lean -/

theorem tallyFeature_only (c : Ctx) (tag : Tag) (kind : BitVec 5) (band : Fin 4) (along across : Word) (z : Zone)
    (s : State) : Only [.entries, .evaluator, .watches] s (tallyFeature c tag kind band along across z s) := by
  unfold tallyFeature; refine only_withEntry fun e s => ?_
  dsimp only
  have h := fun (f : Entry → Entry) (hf : keepsHold f) =>
    (modifyEntry_only tag f s hf).mono (W := [.entries, .evaluator, .watches]) rfl
  split
  · exact .via (decideEntry_only ..) rfl (.via (h _ fun _ => ⟨rfl, rfl, rfl⟩) rfl (.refl ..))
  · exact h _ fun _ => ⟨rfl, rfl, rfl⟩

theorem tallyHeld_only (c : Ctx) (tag : Tag) (z : Zone) (x : HeldFeature) (s : State) :
    Only [.entries, .evaluator, .watches] s (tallyHeld c tag z x s) := tallyFeature_only ..

theorem overflowHold_only (c : Ctx) (tag : Tag) (s : State) :
    Only [.entries, .evaluator, .watches] s (overflowHold c tag s) := by
  unfold overflowHold; refine only_withEntry fun e s => ?_
  split
  · split
    · exact .via (tallyHeld_only ..) rfl (.via (disarmFirst_only ..) rfl (.via (modifyEntry_only _ _ _ fun _ => ⟨rfl, rfl, rfl⟩) rfl (.refl ..)))
    · exact Only.refl ..
  · exact Only.refl ..

theorem holdFeature_only (c : Ctx) (tag : Tag) (x : HeldFeature) (s : State) :
    Only [.entries, .evaluator, .watches] s (holdFeature c tag x s) :=
  .via (arm_only ..) rfl (.via (modifyEntry_only _ _ _ fun _ => ⟨rfl, rfl, rfl⟩) rfl (.via (overflowHold_only ..) rfl (.refl ..)))

theorem classifyFeature_only (c : Ctx) (tag : Tag) (lane : Lane) (kind : BitVec 5) (along across : Word)
    (pos : Position) (s : State) :
    Only [.entries, .evaluator, .watches] s (classifyFeature c tag lane kind along across pos s) := by
  unfold classifyFeature; refine only_withEntry fun e s => ?_
  dsimp only; split
  · exact tallyFeature_only ..
  · split
    · exact tallyFeature_only ..
    · exact holdFeature_only ..

theorem releaseFeature_only (tag : Tag) (w : Watch) (s : State) :
    Only [.entries, .evaluator, .watches] s (releaseFeature tag w s) := by
  unfold releaseFeature; refine only_withEntry fun e s => ?_
  split
  · exact .via (tallyHeld_only ..) rfl (.via (modifyEntry_only _ _ _ fun _ => ⟨rfl, rfl, rfl⟩) rfl (.refl ..))
  · exact Only.refl ..

theorem emptyHold_only (c : Ctx) (tag : Tag) (s : State) :
    Only [.entries, .evaluator, .watches] s (emptyHold c tag s) := by
  unfold emptyHold; refine only_withEntry fun e s => ?_
  refine Only.trans ((modifyEntry_only _ _ _ ?_).mono rfl)
    (only_foldl (W := [.entries, .evaluator, .watches]) (fun s h => ?_) _ _)
  · exact fun _ => ⟨rfl, rfl, rfl⟩
  · exact .via (tallyHeld_only ..) rfl (.via (disarmFirst_only ..) rfl (.refl ..))

theorem summariseSample_only (tag : Tag) (lane : Lane) (r t : Word) (s : State) :
    Only [.entries] s (summariseSample tag lane r t s) := by
  unfold summariseSample; exact only_withEntry fun e s => modifyEntry_only _ _ _ fun _ => ⟨rfl, rfl, rfl⟩

/-! ### Machine/Evaluation.lean -/

theorem setEvaluator_only (s : State) (v : Evaluator) : Only [.evaluator] s (s.setEvaluator v) := by
  constructor <;> simp [holdingsOf]

theorem startEvaluation_only (s : State) : Only [.entries, .evaluator] s (startEvaluation s) := by
  unfold startEvaluation; split
  · exact only_withEntry fun e s => .via (modifyEntry_only _ _ _ fun _ => ⟨rfl, rfl, rfl⟩) rfl (.via (setEvaluator_only ..) rfl (.refl ..))
  · exact Only.refl ..

theorem setEvalStatus_only (st : EvalStatus) (tag : Tag) (s : State) : Only [.entries] s (setEvalStatus st tag s) :=
  modifyEntry_only _ _ _ fun _ => ⟨rfl, rfl, rfl⟩

theorem evaluatorIdle_only (s : State) : Only [.evaluator] s (evaluatorIdle s) := setEvaluator_only ..

theorem applyResult_only (c : Ctx) (f : InFlight) (s : State) :
    Only [.entries, .evaluator, .watches] s (applyResult c f s) := by
  unfold applyResult; refine only_withEntry fun e s => ?_
  dsimp only; split
  · exact .via (setEvalStatus_only ..) rfl (.via (decideEntry_only ..) rfl (.refl ..))
  · split
    · exact .via (setEvalStatus_only ..) rfl (.via (modifyEntry_only _ _ _ fun _ => ⟨rfl, rfl, rfl⟩) rfl (.refl ..))
    · exact .via (setEvalStatus_only ..) rfl (.refl ..)

theorem completeEvaluation_only (s : State) : Only decideParts s (completeEvaluation s) := by
  unfold completeEvaluation; split
  · exact .via (startEvaluation_only _) rfl (.via (evaluatorIdle_only _) rfl (.via (endHold_only ..) rfl (.via (applyResult_only ..) rfl (.refl ..))))
  · exact Only.refl ..

/-! ### Machine/Tracking.lean -/

theorem listEntry_only (tag : Tag) (s : State) : Only [.entries, .evaluator] s (listEntry tag s) :=
  .via (startEvaluation_only _) rfl (.via (setEvalStatus_only ..) rfl (.via (setEvaluator_only ..) rfl (.refl ..)))

theorem settleClosed_only (c : Ctx) (tag : Tag) (s : State) :
    Only [.entries, .evaluator, .watches] s (settleClosed c tag s) := by
  unfold settleClosed; refine only_withEntry fun e s => ?_
  split
  · exact decideEntry_only ..
  · split
    · exact Only.refl ..
    · exact .via (listEntry_only ..) rfl (.refl ..)

theorem Entry.closedAt_keeps (p : Position) : keepsHold fun e => e.closedAt p := by
  intro e; dsimp only; unfold Entry.closedAt; split <;> exact ⟨rfl, rfl, rfl⟩

theorem closeEntry_only (c : Ctx) (tag : Tag) (p : Position) (s : State) :
    Only decideParts s (closeEntry c tag p s) := by
  unfold closeEntry; refine only_withEntry fun e s => ?_
  exact .via (endHold_only ..) rfl (.via (settleClosed_only ..) rfl (.via (emptyHold_only ..) rfl (.via (arm_only ..) rfl (.via (disarm_only ..) rfl (.via (modifyEntry_only tag (fun e => e.closedAt p) s (Entry.closedAt_keeps p)) rfl (.refl ..))))))

theorem forceCloseAll_only (c : Ctx) (own : EntryFlags → EntryFlags) (tags : List Tag) (p : Position) (s : State) :
    Only decideParts s (forceCloseAll c own tags p s) :=
  only_foldl (fun s tag => .via (closeEntry_only c tag p _) rfl (.via (markSuspect_only c own tag s) rfl (.refl ..))) _ _

theorem setBlind_only (s : State) (b : Option BlindSpan) :
    Only [.blind] s (s.setTracker { s.tracker with blind := b }) := by constructor <;> simp [holdingsOf]

theorem blindOpen_only (c : Ctx) (p : Position) (s : State) : Only blindParts s (blindOpen c p s) := by
  unfold blindOpen; split
  · exact .via (intervalCreated_only ..) rfl (.via (raise_only ..) rfl (.via (arm_only ..) rfl (.via (setBlind_only ..) rfl (.refl ..))))
  · next b _ =>
    have h : Only blindParts s (arm c .forcedSeal (p + maxSheet s) (disarm .forcedSeal (s.setTracker { s.tracker with
        blind := some { b with outstanding := satInc 255 b.outstanding, latest := p, sealState := .unsealed } }))) :=
      .via (arm_only ..) rfl (.via (disarm_only ..) rfl (.via (setBlind_only ..) rfl (.refl ..)))
    dsimp only; split
    · exact .via (intervalUnsealed_only _) rfl (.via (raise_only ..) rfl (.via (disarm_only ..) rfl h))
    · exact h

theorem sealSpan_only (c : Ctx) (b : BlindSpan) (p : Position) (s : State) :
    Only [.blind, .watches, .interval] s (sealSpan c b p s) :=
  .via (intervalSealed_only ..) rfl (.via (arm_only ..) rfl (.via (disarm_only ..) rfl (.via (setBlind_only ..) rfl (.refl ..))))

theorem blindClose_only (c : Ctx) (b : BlindSpan) (p : Position) (s : State) :
    Only [.blind, .watches, .interval] s (blindClose c b p s) := by
  unfold blindClose; dsimp only; split
  · exact sealSpan_only ..
  · exact .via (setBlind_only ..) rfl (.refl ..)

theorem forcedSeal_only (w : Watch) (s : State) : Only [.blind, .watches, .interval] s (forcedSeal w s) := by
  unfold forcedSeal; split
  · split
    · exact sealSpan_only ..
    · exact Only.refl ..
  · exact Only.refl ..

theorem enterStandby_only (s : State) : Only [.mode, .watches] s (enterStandby s) :=
  .via (disarm_only ..) rfl (.via (setMode_only ..) rfl (.refl ..))

theorem drainEnd_only (c : Ctx) (s : State) : Only (.mode :: raiseParts) s (drainEnd c s) := by
  unfold drainEnd; split
  · exact .via (raise_only ..) rfl (.via (enterStandby_only _) rfl (.refl ..))
  · exact Only.refl ..

theorem giveNotice_only (n : Bool) (c : Ctx) (s : State) : Only (.mode :: raiseParts) s (giveNotice n c s) := by
  unfold giveNotice; split
  · exact drainEnd_only ..
  · exact Only.refl ..

theorem clearSpan_only (n : Bool) (w : Watch) (s : State) :
    Only (.blind :: .interval :: .mode :: raiseParts) s (clearSpan n w s) := by
  unfold clearSpan; split
  · split
    · exact .via (giveNotice_only ..) rfl (.via (intervalEnds_only _) rfl (.via (setBlind_only ..) rfl (.refl ..)))
    · exact Only.refl ..
  · exact Only.refl ..

theorem spanConflict_only (c : Ctx) (p : Position) (first last : Lane) (s : State) :
    Only decideParts s (spanConflict c p first last s) := by
  unfold spanConflict; split
  · exact Only.refl ..
  · exact .via (raise_only ..) rfl (.via (forceCloseAll_only ..) rfl (.refl ..))

theorem openEntry_only (c : Ctx) (p : Position) (first last : Lane) (s : State) :
    Only openParts s (openEntry c p first last s) := by
  have h : Only openParts s (commitIfPending c s) := .via (commitIfPending_only ..) rfl (.refl ..)
  unfold openEntry; dsimp only
  refine .via (arm_only ..) rfl (.via (arm_only ..) rfl (.via (setHolders_only ..) rfl (h.trans ?_)))
  constructor <;> simp [holdingsOf]

theorem takeOpen_only (first last : Lane) (o : Byte) (p : Position) (s : State) :
    Only openParts s (takeOpen first last o p s) := by
  have h : Only openParts s (spanConflict (Ctx.now s) (placed s p o) first last s) := .via (spanConflict_only ..) rfl (.refl ..)
  unfold takeOpen; dsimp only; split
  · exact .via (openEntry_only ..) rfl h
  · exact .via (blindOpen_only ..) rfl h

theorem unattributed_only (s : State) : Only raiseParts s (unattributed s) := by
  unfold unattributed; split
  · exact Only.refl ..
  · exact raise_only ..

theorem takeFeature_only (lane : Lane) (k : BitVec 5) (a w : Word) (o : Byte) (p : Position) (s : State) :
    Only decideParts s (takeFeature lane k a w o p s) := by
  unfold takeFeature; split
  · exact .via (classifyFeature_only ..) rfl (.refl ..)
  · exact .via (unattributed_only _) rfl (.refl ..)

theorem takeMoist_only (lane : Lane) (r t : Word) (s : State) : Only raiseParts s (takeMoist lane r t s) := by
  unfold takeMoist; split
  · exact .via (summariseSample_only ..) rfl (.refl ..)
  · exact unattributed_only _

theorem takeClose_only (first last : Lane) (o : Byte) (p : Position) (s : State) :
    Only blindParts s (takeClose first last o p s) := by
  unfold takeClose; dsimp only; split
  · refine Only.seq (V := decideParts) ?_ (closeEntry_only ..) rfl
    split
    · exact Only.refl ..
    · exact .via (markSuspect_only ..) rfl (.refl ..)
  · split
    · split
      · exact .via (blindClose_only ..) rfl (.refl ..)
      · exact .via (raise_only ..) rfl (.refl ..)
    · exact .via (raise_only ..) rfl (.refl ..)

theorem silenceNotice_only (c : Ctx) (p : Position) (s : State) : Only decideParts s (silenceNotice c p s) :=
  forceCloseAll_only ..

theorem overlengthReached_only (tag : Tag) (w : Watch) (s : State) :
    Only decideParts s (overlengthReached tag w s) := by
  unfold overlengthReached; refine only_withEntry fun e s => ?_
  split
  · exact .via (closeEntry_only ..) rfl (.via (raise_only ..) rfl (.via (markSuspect_only ..) rfl (.refl ..)))
  · exact Only.refl ..

theorem decisionReached_only (tag : Tag) (w : Watch) (s : State) : Only decideParts s (decisionReached tag w s) := by
  unfold decisionReached; refine only_withEntry fun e s => ?_
  split
  · exact .via (raise_only ..) rfl (.via (endHold_only ..) rfl (.via (decideEntry_only ..) rfl (.refl ..)))
  · exact Only.refl ..

theorem countGrade_only (g : Fin 16) (s : State) : Only [.grades] s (countGrade g s) := by
  constructor <;> simp [holdingsOf, countGrade]

theorem reportAndCount_only (e : Entry) (s : State) : Only (.grades :: raiseParts) s (reportAndCount e s) := by
  unfold reportAndCount; split
  · split
    · exact .via (countGrade_only ..) rfl (.via (offer_only ..) rfl (.refl ..))
    · exact .via (countGrade_only ..) rfl (.refl ..)
  · exact Only.refl ..

theorem removeEntry_only (tag : Tag) (s : State) :
    Only [.entries, .tags, .holdings, .evaluator, .watches] s (removeEntry tag s) := by
  refine Only.seq (V := [.watches]) (Only.seq (V := [.evaluator]) ?_ (unlist_only ..) rfl) (disarmTag_only ..) rfl
  constructor <;> simp [holdingsOf]

theorem abandonEvaluation_only (tag : Tag) (s : State) : Only [.entries, .evaluator] s (abandonEvaluation tag s) := by
  unfold abandonEvaluation; split
  · split
    · exact .via (startEvaluation_only _) rfl (.via (evaluatorIdle_only _) rfl (.refl ..))
    · exact Only.refl ..
  · exact Only.refl ..

theorem retireEntry_only (n : Bool) (c : Ctx) (e : Entry) (s : State) : Only retireParts s (retireEntry n c e s) := by
  have h : Only retireParts s (markerRetired e.tag (routeRetired c e (removeEntry e.tag (reportAndCount e s)))) :=
    .via (markerRetired_only ..) rfl (.via (routeRetired_only ..) rfl (.via (removeEntry_only ..) rfl (.via (reportAndCount_only ..) rfl (.refl ..))))
  unfold retireEntry; dsimp only
  refine .via (giveNotice_only ..) rfl (.via (commitIfQueueEmpty_only ..) rfl (.via (abandonEvaluation_only ..) rfl ?_))
  split
  · exact .via (releaseHold_only ..) rfl h
  · exact h

theorem retirementReached_only (tag : Tag) (n : Bool) (w : Watch) (s : State) :
    Only retireParts s (retirementReached tag n w s) := by
  unfold retirementReached; refine only_withEntry fun e s => ?_
  split
  · exact Only.refl ..
  · exact retireEntry_only ..

theorem flush_only (c : Ctx) (s : State) :
    Only [.entries, .tags, .holdings, .blind, .evaluator, .watches, .link, .flags, .holds, .active,
      .commitPending, .interval, .marker] s
      (flush c s) := by
  refine Only.trans (t := s.setTracker { s.tracker with sheets := [], blind := none }) ?_ ?_
  · constructor <;> simp [holdingsOf]
  · refine Only.trans (t := endStamp (flushRoute (flushTables c
      ((s.setTracker { s.tracker with sheets := [], blind := none }).setEvaluator ⟨[], none⟩)))) ?_ ?_
    · exact .via (endStamp_only _) rfl (.via (flushRoute_only _) rfl (.via (flushTables_only ..) rfl (.via (setEvaluator_only ..) rfl (.refl ..))))
    · unfold flush; constructor <;> simp [holdingsOf]

/-! ### Machine/ScanIntake.lean -/

theorem setScan_only (s : State) (v : ScanPort) (h : v.rejected = s.scan.rejected) : Only [.scan] s (s.setScan v) := by
  constructor <;> simp [holdingsOf, h]
theorem endFraming_only (s : State) : Only [.scan] s (endFraming s) := setScan_only _ _ rfl
theorem rejectRecord_only (s : State) : Only (.scan :: .rejected :: raiseParts) s (rejectRecord s) := by
  refine .via (raise_only ..) rfl ?_
  constructor <;> simp [holdingsOf]
/-- What a rejected record may change. -/
abbrev rejectParts : List Part := .scan :: .rejected :: raiseParts

theorem loseEnd_only (s : State) : Only rejectParts s (loseEnd s) := by
  have e : Only rejectParts s (endFraming s) := (endFraming_only s).mono rfl
  unfold loseEnd; dsimp only; split
  · exact e
  · exact e.trans (rejectRecord_only _)

theorem startMark_only (s : State) : Only rejectParts s (startMark s) := by
  unfold startMark; split
  · exact Only.refl ..
  · exact loseEnd_only s

theorem armSilence_only (s : State) : Only [.scan, .watches] s (armSilence s) :=
  .via (arm_only ..) rfl (.via (disarm_only ..) rfl (.via (setScan_only _ _ rfl) rfl (.refl ..)))

theorem numberFrame_only (n : Word) (s : State) : Only (.scan :: decideParts) s (numberFrame n s) := by
  unfold numberFrame; dsimp only
  refine Only.seq (V := [.scan]) ?_ (setScan_only _ _ rfl) rfl
  split
  · exact Only.refl ..
  · split
    · exact Only.refl ..
    · exact .via (frameGapNotice_only ..) rfl (.via (raise_only ..) rfl (.refl ..))

/-- A traffic record changes what its own block may change, and what the Scan Port does. -/
theorem takeTraffic_only {W : List Part} (deck : BitVec 1) (ok : Bool) (act : Position → State → State) (s : State)
    (h : ∀ p s, Only W s (act p s)) (sub : ((Part.scan :: .rejected :: raiseParts).all fun p => W.contains p) = true) :
    Only W s (takeTraffic deck ok act s) := by
  have up : ∀ p ∈ Part.scan :: .rejected :: raiseParts, p ∈ W := fun p hp => by simpa using List.all_eq_true.mp sub p hp
  have m : ∀ {s t}, Only (Part.scan :: .rejected :: raiseParts) s t → Only W s t := fun k => k.mono sub
  have e : Only W s (startMark s) := m (startMark_only s)
  unfold takeTraffic; dsimp only
  split
  · exact e
  · split
    · exact e
    · split
      · exact e
      · exact e.trans (m (rejectRecord_only _))
  all_goals
    split
    · exact e
    · split
      · exact (e.trans (m ((armSilence_only _).mono rfl))).trans (h _ _)
      · exact e.trans (m (rejectRecord_only _))

theorem silenceReached_only (w : Watch) (s : State) : Only (.scan :: decideParts) s (silenceReached w s) := by
  unfold silenceReached; split
  · exact .via (silenceNotice_only ..) rfl (.via (raise_only ..) rfl (.via (setScan_only _ _ rfl) rfl (.refl ..)))
  · exact Only.refl ..

/-! ### Machine/BeltPosition.lean -/

theorem actOn_only (w : Watch) (s : State) : Only takeParts s (actOn w s) := by
  unfold actOn; split
  · exact .via (silenceReached_only ..) rfl (.refl ..)
  · exact .via (overlengthReached_only ..) rfl (.refl ..)
  · exact .via (decisionReached_only ..) rfl (.refl ..)
  · exact .via (retirementReached_only ..) rfl (.refl ..)
  · exact .via (forcedSeal_only ..) rfl (.refl ..)
  · exact .via (clearSpan_only ..) rfl (.refl ..)
  · exact .via (releaseFeature_only ..) rfl (.refl ..)
  · exact .via (firePoint_only ..) rfl (.refl ..)
  · exact .via (staleExpiry_only ..) rfl (.refl ..)
  · exact .via (windowOpening_only ..) rfl (.refl ..)
  · exact .via (windowClosing_only ..) rfl (.refl ..)
  · exact .via (intervalOpening_only ..) rfl (.refl ..)
  · exact .via (intervalEnds_only _) rfl (.refl ..)
  · exact .via (stampStart_only ..) rfl (.refl ..)
  · exact .via (dotEnd_only ..) rfl (.refl ..)
  · exact .via (nextRow_only ..) rfl (.refl ..)

theorem takeNext_only (w : Watcher) (s : State) : Only takeParts s (takeNext w s) := by
  unfold takeNext; split
  · exact .via (actOn_only ..) rfl (.via (dropWatch_only ..) rfl (.refl ..))
  · exact Only.refl ..

theorem takeAny_only {s t : State} (h : takeAny s = some t) : Only (.draws :: takeParts) s t := by
  unfold takeAny at h; split at h
  · cases h
  · cases h; exact .via (takeNext_only ..) rfl (.refl ..)
  · cases h
    refine Only.trans (t := draw s) ?_ ((takeNext_only ..).mono rfl)
    constructor <;> simp [holdingsOf, draw]

theorem settleFuel_only : ∀ (n : Nat) (s : State), Only (.draws :: takeParts) s (settleFuel n s)
  | 0, s => Only.refl ..
  | n + 1, s => by
    unfold settleFuel; split
    · exact Only.refl ..
    · next h => exact .via (settleFuel_only n _) rfl (.via (takeAny_only h) rfl (.refl ..))

theorem settle_only (s : State) : Only (.draws :: takeParts) s (settle s) := settleFuel_only ..

/-- The command of a watched position changes what its watcher may change. -/
theorem takeNamed_only {W : List Part} {kind : WatchKind} {act : Watch → State → State} {s : State}
    (h : ∀ w s, Only W s (act w s)) (sub : Part.watches ∈ W) : Only W s (takeNamed kind act s) := by
  unfold takeNamed; split
  · split
    · exact ((dropWatch_only ..).mono (by simp [sub])).trans (h _ _)
    · exact Only.refl ..
  · exact Only.refl ..

theorem setPosition_only (s : State) (v : PositionUnit) : Only [.position] s (s.setPosition v) := by
  constructor <;> simp [holdingsOf]
theorem pulseLevels_only (r : Bool) (s : State) : Only [.pins] s (pulseLevels r s) := by
  constructor <;> simp [holdingsOf, pulseLevels]

theorem advanceBelt_only (n : Nat) (s : State) : Only [.position, .watches] s (advanceBelt n s) := by
  constructor <;> simp [holdingsOf, advanceBelt]

/-- What a belt advance may change. -/
abbrev advanceParts : List Part := .position :: .draws :: takeParts

theorem beltAdvance_only (whole : Bool) (n : Nat) (s : State) : Only advanceParts s (beltAdvance whole n s) := by
  have h : Only advanceParts s (advanceBelt n (settle s)) :=
    .via (advanceBelt_only ..) rfl (.via (settle_only s) rfl (.refl ..))
  unfold beltAdvance; dsimp only; split
  · exact .via (settle_only _) rfl h
  · exact h

theorem countPulse_only (whole : Bool) (s : State) : Only advanceParts s (countPulse whole s) := by
  unfold countPulse; split
  · split
    · exact .via (beltAdvance_only ..) rfl (.via (setPosition_only ..) rfl (.refl ..))
    · exact .via (setPosition_only ..) rfl (.refl ..)
  · exact beltAdvance_only ..

theorem forwardPulse_only (whole : Bool) (s : State) : Only (.pins :: advanceParts) s (forwardPulse whole s) := by
  have h : Only (.pins :: advanceParts) s (pulseLevels false s) := .via (pulseLevels_only ..) rfl (.refl ..)
  unfold forwardPulse; dsimp only; split
  · exact h
  · split
    · exact .via (setPosition_only ..) rfl h
    · exact .via (countPulse_only ..) rfl h

theorem reversePulse_only (s : State) : Only (.pins :: .position :: decideParts) s (reversePulse s) := by
  have h : Only (.pins :: .position :: decideParts) s (pulseLevels true s) := .via (pulseLevels_only ..) rfl (.refl ..)
  unfold reversePulse; dsimp only; split
  · exact h
  · split
    · exact .via (setPosition_only ..) rfl h
    · exact .via (reversalNotice_only ..) rfl (.via (raise_only ..) rfl (.via (setPosition_only ..) rfl h))

end Sys2Proof.Machine
end

