-- ==== Sys2Proof/Laws/Commands.lean ====
section
/-! SUPPORT. What each command can change: `changes c` names the parts of State, `exec_only` says that a well-formed
command changes no other. -/
namespace Sys2Proof.Machine
open Sys2Proof.Safety

/-! ### The requests -/

theorem setSettings_only (s : State) (v : Settings) : Only [.settings] s (s.setSettings v) := by constructor <;> simp [holdingsOf]
theorem setPins_only (s : State) (v : Pins) : Only [.pins] s (s.setPins v) := by constructor <;> simp [holdingsOf]
theorem draw_only (s : State) : Only [.draws] s (draw s) := by constructor <;> simp [holdingsOf, draw]

theorem withNotice_only {W : List Part} {act : Bool → Watch → State → State} (h : ∀ b w s, Only W s (act b w s))
    (w : Watch) (s : State) : Only (.draws :: W) s (withNotice act w s) :=
  .via (h ..) (by simp +contextual) (.via (draw_only s) (by simp) (.refl ..))

theorem copyProgress_only (s : State) : Only [.banks, .draws] s (copyProgress s) := by
  unfold copyProgress; split
  · refine .via (draw_only _) rfl ?_
    cases s.tables.other <;> constructor <;> simp [holdingsOf, TableStore.setBank]
  · exact Only.refl ..

/-- What the taking of a request may change: what its act may, what a record that lost its end may, and what a REPLY
offered may. -/
theorem takeRequest_only {W : List Part} {h : ReqHeader} {act : State → State × Option Answer} {s : State}
    (hact : ∀ s, Only W s (act s).1) (sub : (rejectParts.all fun p => W.contains p) = true) :
    Only W s (takeRequest h act s) := by
  have m : ∀ {s t}, Only rejectParts s t → Only W s t := fun k => k.mono sub
  have e : Only W s (startMark s) := m (startMark_only s)
  unfold takeRequest; dsimp only
  split
  · exact e
  · split
    · split
      · split
        · exact (e.trans (hact _)).trans (m ((offer_only ..).mono rfl))
        · exact e.trans (hact _)
      · exact e.trans (hact _)
    · exact e

theorem readRequest_only (o sel : Byte) (i : Word) (n : Byte) (s : State) :
    Only [.banks, .draws] s (readRequest o sel i n s).1 := copyProgress_only s

theorem settingStored_only (o : SettingS) (s : State) : Only [.position] s (settingStored o s) := by
  cases o <;> first | exact setPosition_only .. | exact Only.refl ..

theorem writeStandby_only (o : SettingS) (i n : Nat) (vs : List Word) (s : State) :
    Only [.settings, .position] s (writeStandby o i n vs s).1 := by
  unfold writeStandby; split
  · exact Only.refl ..
  · split
    · exact Only.refl ..
    · exact .via (settingStored_only ..) rfl (.via (setSettings_only ..) rfl (.refl ..))

theorem writeLive_only (o : SettingL) (i n : Nat) (vs : List Word) (s : State) :
    Only [.settings] s (writeLive o i n vs s).1 := by
  unfold writeLive; split
  · exact Only.refl ..
  · exact setSettings_only ..

theorem writeTableObject_only (o : TableObject) (i n : Nat) (vs : List Word) (s : State) :
    Only [.banks] s (writeTableObject o i n vs s).1 := by
  unfold writeTableObject; split
  · exact Only.refl ..
  · split
    · exact Only.refl ..
    · dsimp only; cases s.tables.other <;> constructor <;> simp [holdingsOf, TableStore.setBank]

/-- Which parts a Write of an object may change. -/
def writeParts : Option Object → List Part
  | some (.standby _) => [.settings, .position]
  | some (.live _) => [.settings]
  | some (.table _) => [.banks]
  | some (.status _) | none => []

theorem writeRequest_only (o : Byte) (i : Word) (vs : List Word) (s : State) :
    Only (writeParts (objectOf o)) s (writeRequest o i vs s).1 := by
  unfold writeRequest
  rcases objectOf o with _ | ⟨x | x | x | x⟩ <;> dsimp only [writeParts]
  · exact Only.refl ..
  all_goals first | exact Only.refl .. | (split <;> first | exact Only.refl .. | skip)
  · exact writeStandby_only ..
  · exact writeLive_only ..
  · exact writeTableObject_only ..

/-- A table code names a table object, and a code that is not one names none. -/
theorem writeParts_table : ∀ o : Byte, isTableCode o = true →
    ((writeParts (objectOf o)).all fun p => [Part.banks].contains p) = true := by decide +kernel
theorem writeParts_other : ∀ o : Byte, isTableCode o = false →
    ((writeParts (objectOf o)).all fun p => [Part.settings, .position].contains p) = true := by decide +kernel

theorem commitRequest_only (s : State) :
    Only (.holds :: .active :: .commitPending :: raiseParts) s (commitRequest s).1 := by
  unfold commitRequest; split
  · exact Only.refl ..
  · split
    · exact Only.refl ..
    · refine .via (commitIfQueueEmpty_only ..) rfl ?_
      constructor <;> simp [holdingsOf]

theorem copyRequest_only (h : ReqHeader) (s : State) : Only [.copyInFlight, .copyReply] s (copyRequest h s).1 := by
  unfold copyRequest; split
  · exact Only.refl ..
  · dsimp only; constructor <;> simp [holdingsOf]

theorem beginStreaming_only (s : State) : Only [.scan, .watches, .mode, .lineTest] s (beginStreaming s) := by
  refine .via (setMode_only ..) rfl (.via (armSilence_only _) rfl (.via (setScan_only _ _ rfl) rfl ?_))
  constructor <;> simp [holdingsOf]

theorem modeStreaming_only (s : State) : Only [.scan, .watches, .mode, .lineTest] s (modeStreaming s).1 := by
  unfold modeStreaming; split
  · split
    · exact Only.refl ..
    · exact beginStreaming_only s
  · exact .via (setMode_only ..) rfl (.refl ..)
  all_goals exact Only.refl ..

theorem modeDrain_only (s : State) : Only (.mode :: raiseParts) s (modeDrain s).1 := by
  unfold modeDrain; split
  · exact .via (drainEnd_only ..) rfl (.via (setMode_only ..) rfl (.refl ..))
  all_goals exact Only.refl ..

/-- What a flush may change, with the mode. -/
abbrev flushParts : List Part :=
  [.entries, .tags, .holdings, .blind, .evaluator, .watches, .link, .flags, .holds, .active, .commitPending, .interval, .marker,
   .mode]

theorem modeFlush_only (s : State) : Only flushParts s (modeFlush s).1 := by
  unfold modeFlush; split
  case h_1 => exact .via (setMode_only ..) rfl (.via (flush_only ..) rfl (.refl ..))
  case h_2 => exact .via (setMode_only ..) rfl (.via (flush_only ..) rfl (.refl ..))
  all_goals exact Only.refl ..

theorem clearCodes_only (codes : List Byte) (s : State) : Only [.flags] s (clearCodes codes s) :=
  only_foldl (fun s _ => clearFlagCode_only _ s) _ _

theorem clearRequest_only (ch : Byte) (codes : List Byte) (s : State) :
    Only [.flags, .grades, .rejected, .scan] s (clearRequest ch codes s).1 := by
  have h : Only [.flags, .grades, .rejected, .scan] s (clearCodes codes s) := .via (clearCodes_only ..) rfl (.refl ..)
  unfold clearRequest; split
  · exact Only.refl ..
  · dsimp only
    have g : ∀ s : State, Only [.flags, .grades, .rejected, .scan] s
        (s.setAttention { s.attention with grades := Vector.replicate 16 0 }) := fun s => by constructor <;> simp [holdingsOf]
    have r : ∀ s : State, Only [.flags, .grades, .rejected, .scan] s
        (s.setScan { s.scan with rejected := 0 }) := fun s => by constructor <;> simp [holdingsOf]
    split <;> split
    · exact (h.trans (g _)).trans (r _)
    · exact h.trans (r _)
    · exact h.trans (g _)
    · exact h

theorem sampleLevels_only (p : Pins) (s : State) : Only [.pins, .entries, .watches, .link] s (sampleLevels p s) :=
  .via (tryBegin_only _) rfl (.via (setPins_only ..) rfl (.refl ..))

/-- What a Test may change; the pins only by a HOLD or RELEASE taken in STANDBY (log 10). -/
theorem testRequest_only (a l : Byte) (n : NozzleSet) (p : Pins) (s : State) :
    Only [.lineTest, .pins, .entries, .watches, .link] s (testRequest a l n p s).1 := by
  have k : ∀ v, Only [.lineTest, .pins, .entries, .watches, .link] s (s.setAgent { s.agent with lineTest := v }) :=
    fun v => by constructor <;> simp [holdingsOf]
  unfold testRequest; split
  · exact Only.refl ..
  · split
    · exact .via (sampleLevels_only ..) rfl (k _)
    · exact .via (sampleLevels_only ..) rfl (k _)
    · exact Only.refl ..

/-- What a warm reset may change: all but the settings, the banks' ACTIVE side, the rejected-record counter, the grade
counters, the Option Block values and the waiting commands. -/
abbrev resetParts : List Part :=
  [.scan, .position, .watches, .entries, .tags, .holdings, .tagCounter, .blind, .evaluator, .banks, .copyInFlight, .commitPending,
   .holds, .interval, .link, .marker, .mode, .lineTest, .copyReply, .flags, .startup, .draws]

theorem tables_warmReset_keeps (n : Nat) (t : TableStore) :
    (t.warmReset n).active = t.active ∧ (t.warmReset n).generation = t.generation := by
  cases h : t.copyInFlight <;> cases k : t.other <;> simp [TableStore.warmReset, TableStore.setBank, h, k]

theorem warmReset_only (r : StartRecord) (s : State) : Only resetParts s (warmReset r s) := by
  have h := tables_warmReset_keeps s.draws s.tables
  constructor <;> simp [holdingsOf, warmReset, h]

theorem restartRequest_only (h : ReqHeader) (s : State) : Only resetParts s (restartRequest h s).1 := warmReset_only ..

/-! ### Resets and LOADING -/

theorem pinReset_only (s : State) : Only resetParts s (pinReset s) := by
  unfold pinReset; split <;> exact warmReset_only ..

/-- All but the input levels, the Option Block, the draws and the waiting commands. -/
abbrev powerParts : List Part :=
  .rejected :: .settings :: .active :: .options :: .grades :: resetParts

theorem powerOn_only (s : State) : Only powerParts s (powerOn s) := by
  constructor <;> first | exact .inl (by decide) | exact .inr rfl

/-- What the end of LOADING may change. -/
abbrev loadingParts : List Part := .banks :: .mode :: .options :: .startup :: .pins :: .optionBlock :: .scan :: raiseParts

theorem takeOptionBlock_only (o : OptionBlock) (p : Pins) (s : State) :
    Only loadingParts s (takeOptionBlock o p s) := by
  have h : Only loadingParts s (if optionFaulted o then setFlag .optionFault s else s) := by
    split
    · exact .via (setFlag_only ..) rfl (.refl ..)
    · exact Only.refl ..
  unfold takeOptionBlock
  refine h.trans ?_
  generalize (if optionFaulted o then setFlag .optionFault s else s) = u
  dsimp only
  constructor <;> cases u.attention.startup.cause <;> simp [holdingsOf, applyPreset, takeOptions] <;> split <;> rfl

theorem announce_only (b : Bool) (s : State) : Only raiseParts s (announce b s) := by
  unfold announce; dsimp only; split
  · exact .via (offer_only ..) rfl (.via (offer_only ..) rfl (.refl ..))
  · exact .via (offer_only ..) rfl (.refl ..)

theorem endLoading_only (o : Option OptionBlock) (p : Pins) (s : State) : Only loadingParts s (endLoading o p s) := by
  unfold endLoading; split
  · exact .via (announce_only ..) rfl (.via (takeOptionBlock_only ..) rfl (.refl ..))
  · exact Only.refl ..

/-! ### The line -/

theorem setFraming_only (f : Framing) (s : State) : Only [.scan] s (setFraming f s) := setScan_only _ _ rfl

/-- A record that fails the integrity check is rejected at most. -/
theorem judgeRecord_only (bytes : List Byte) (s : State) (h : parseRecord bytes = none) :
    Only rejectParts s (judgeRecord bytes s) := by
  have e : Only rejectParts s (endFraming s) := (endFraming_only s).mono rfl
  unfold judgeRecord; dsimp only
  split
  · exact e
  · rw [h]; exact e.trans (rejectRecord_only _)

theorem takeLine_start (s : State) :
    Only rejectParts s (lineSymbol .start s) ∧ (lineSymbol .start s).scan.framing = .receiving [] :=
  ⟨.via (setFraming_only ..) rfl (startMark_only s), rfl⟩

/-- The line after a start mark, with the bytes so far. -/
theorem takeLine_rest (bytes : List Byte) (lost : Bool) :
    ∀ (rest : List LineSymbol) (held : List Byte) (s : State), lineRecord.go held rest = some (bytes, lost) →
      (lost = true ∨ (bytes ≠ [] ∧ parseRecord bytes = none)) → s.scan.framing = .receiving held →
      Only rejectParts s (takeLine rest s)
  | [], _, _, h, _, _ => by simp [lineRecord.go] at h
  | [.stop], held, s, h, k, hf => by
    simp only [lineRecord.go, Option.some.injEq, Prod.mk.injEq] at h
    obtain ⟨rfl, rfl⟩ := h
    have k := k.resolve_left (by simp)
    cases held with
    | nil => exact absurd rfl k.1
    | cons b held =>
      simp only [takeLine, List.foldl_cons, List.foldl_nil, lineSymbol, hf]
      exact judgeRecord_only _ _ k.2
  | [.start], held, s, h, k, hf => by
    simp only [takeLine, List.foldl_cons, List.foldl_nil]
    exact (takeLine_start s).1
  | .byte b :: more, held, s, h, k, hf => by
    have h' : lineRecord.go (held ++ [b]) more = some (bytes, lost) := by simpa [lineRecord.go] using h
    have := takeLine_rest bytes lost more (held ++ [b]) (setFraming (.receiving (held ++ [b])) s) h' k rfl
    simp only [takeLine, List.foldl_cons, lineSymbol, hf]
    exact ((setFraming_only ..).mono rfl).trans this
  | .stop :: _ :: _, _, _, h, _, _ => by simp [lineRecord.go] at h
  | .start :: _ :: _, _, _, h, _, _ => by simp [lineRecord.go] at h

/-- A line that delivers one record that fails is rejected at most. -/
theorem takeLine_only (line : List LineSymbol) (s : State) (h : lineFails line = true) :
    Only rejectParts s (takeLine line s) := by
  unfold lineFails at h
  match line with
  | [] => simp [lineRecord] at h
  | .byte _ :: _ => simp [lineRecord] at h
  | .stop :: _ => simp [lineRecord] at h
  | .start :: rest =>
    simp only [lineRecord] at h
    split at h
    · next bytes lost hg =>
      have k : lost = true ∨ (bytes ≠ [] ∧ parseRecord bytes = none) := by simpa using h
      have st := takeLine_start s
      have := takeLine_rest bytes lost rest [] _ hg k st.2
      simp only [takeLine, List.foldl_cons]
      exact st.1.trans this
    · cases h

/-! ### Every command -/

/-- What a request without an effect of its own may change. -/
abbrev answerParts : List Part := rejectParts

/-- The parts of State that a command may change. -/
def changes : Instr → List Part
  | .frame .. => .scan :: .rejected :: decideParts
  | .openSheet .. => .scan :: .rejected :: openParts
  | .feature .. => .scan :: .rejected :: decideParts
  | .moist .. | .rejectedRecord _ => rejectParts
  | .closeSheet .. => .scan :: .rejected :: blindParts
  | .unknownRequest .. | .ident _ | .modeRequestBadTarget .. | .testRequestBadAction .. => answerParts
  | .read .. => .banks :: .draws :: answerParts
  | .write .. | .writePulseMode .. | .writePulseRatio .. | .writeReverseLimit .. | .writeAlertMask .. =>
    .settings :: .position :: answerParts
  | .writeTable .. => .banks :: answerParts
  | .commit _ => .holds :: .active :: .commitPending :: answerParts
  | .copy _ => .copyInFlight :: .copyReply :: answerParts
  | .modeStreaming _ => .mode :: .lineTest :: answerParts
  | .modeStandbyDrain _ => .mode :: answerParts
  | .modeStandbyFlush _ => .scan :: .rejected :: flushParts
  | .clearFlags .. | .clearGradeCounters .. | .clearRejectedCount .. => .grades :: answerParts
  | .testHold .. | .testRelease .. => .lineTest :: .pins :: answerParts
  | .restart _ => .rejected :: resetParts
  | .forwardPulse _ => .pins :: advanceParts
  | .reversePulse => .pins :: .position :: decideParts
  | .readyRise | .sendingCompletion _ => [.pins, .entries, .watches, .link]
  | .silencePosition => .scan :: decideParts
  | .overlength _ | .decisionPoint _ => decideParts
  | .retirement _ => .draws :: retireParts
  | .forcedSeal => [.blind, .watches, .interval]
  | .clearing => .draws :: .blind :: .interval :: .mode :: raiseParts
  | .releasePosition _ => [.entries, .evaluator, .watches]
  | .firePoint _ | .staleExpiry _ => raiseParts
  | .divertWindowOpening _ | .divertWindowClosing _ => [.entries, .watches]
  | .blindIntervalOpening | .blindIntervalClosing => [.watches, .interval]
  | .stampStart _ => .marker :: raiseParts
  | .dotEnd | .rowPosition => [.marker, .watches]
  | .evaluationStart => [.entries, .evaluator]
  | .evaluationCompletion => decideParts
  | .copyCompletion => .banks :: .copyInFlight :: .copyReply :: raiseParts
  | .commitTakesEffect => .holds :: .active :: .commitPending :: raiseParts
  | .bankRelease => .holds :: raiseParts
  | .drainEndNotice => .mode :: raiseParts
  | .beginSending => [.entries, .watches, .link]
  | .powerOn => powerParts
  | .pinReset => resetParts
  | .loadingEnd .. => loadingParts

theorem frameRecordTaken_only (deck : BitVec 1) (n : Word) (s : State) :
    Only (.scan :: .rejected :: decideParts) s (frameRecordTaken deck n s) :=
  takeTraffic_only _ _ _ _ (fun _ _ => .via (numberFrame_only ..) rfl (.refl ..)) rfl

theorem modeRequest_bad (target : Byte) (s : State) (h : target.toNat = 0 ∨ 3 < target.toNat) :
    modeRequest target s = (s, some (.at .badValue 0)) := by
  unfold modeRequest; split <;> first | omega | rfl

theorem testRequest_bad (a l : Byte) (n : NozzleSet) (p : Pins) (s : State) (h : a.toNat = 0 ∨ 2 < a.toNat) :
    (testRequest a l n p s).1 = s := by
  unfold testRequest; split
  · rfl
  · split <;> first | omega | rfl

/-- A well-formed command changes no part of State but those `changes` names. -/
theorem exec_only {c : Instr} {s t : State} (wf : c.wf = true) (h : exec c s = .next t) : Only (changes c) s t := by
  have named : ∀ {V W : List Part} {k : WatchKind} {act : Watch → State → State}, (∀ w s, Only V s (act w s)) →
      (V.all fun p => W.contains p) = true → Part.watches ∈ W → Only W s (takeNamed k act s) :=
    fun h sub hw => takeNamed_only (fun w s => (h w s).mono sub) hw
  have req : ∀ {V W : List Part} {h : ReqHeader} {act : State → State × Option Answer}, (∀ s, Only V s (act s).1) →
      (V.all fun p => W.contains p) = true → (rejectParts.all fun p => W.contains p) = true →
      Only W s (takeRequest h act s) :=
    fun h sub hw => takeRequest_only (fun s => (h s).mono sub) hw
  have write : ∀ {V W : List Part} {h : ReqHeader} (o : Byte) (i : Word) (vs : List Word),
      ((writeParts (objectOf o)).all fun p => V.contains p) = true → (V.all fun p => W.contains p) = true →
      (rejectParts.all fun p => W.contains p) = true →
      Only W s (takeRequest h (writeRequest o i vs) s) :=
    fun o i vs sub up hw => req (fun s => (writeRequest_only o i vs s).mono sub) up hw
  cases c <;> (cases h; dsimp only [changes]; try dsimp only [Instr.wf] at wf)
  case frame => exact frameRecordTaken_only ..
  case openSheet => exact takeTraffic_only _ _ _ _ (fun _ _ => .via (takeOpen_only ..) rfl (.refl ..)) rfl
  case feature => exact takeTraffic_only _ _ _ _ (fun _ _ => .via (takeFeature_only ..) rfl (.refl ..)) rfl
  case moist => exact takeTraffic_only _ _ _ _ (fun _ _ => .via (takeMoist_only ..) rfl (.refl ..)) rfl
  case closeSheet => exact takeTraffic_only _ _ _ _ (fun _ _ => .via (takeClose_only ..) rfl (.refl ..)) rfl
  case rejectedRecord line => exact takeLine_only _ _ wf
  case unknownRequest h k f =>
    have hp : parseRequest k f = none := by simpa using (Bool.and_eq_true_iff.mp wf).2
    exact req (V := []) (fun s => by rw [hp]; exact Only.refl ..) rfl rfl
  case read => exact req (fun s => readRequest_only _ _ _ _ s) rfl rfl
  case write h o i vs =>
    have ht : isTableCode o = false := by
      have := (Bool.and_eq_true_iff.mp (Bool.and_eq_true_iff.mp wf).1).2
      simpa using this
    exact write o i vs (writeParts_other o ht) rfl rfl
  case writePulseMode h i vs => exact write (V := [.settings, .position]) 0x01 i vs rfl rfl rfl
  case writePulseRatio h i vs => exact write (V := [.settings, .position]) 0x02 i vs rfl rfl rfl
  case writeReverseLimit h i vs => exact write (V := [.settings, .position]) 0x03 i vs rfl rfl rfl
  case writeAlertMask h i vs => exact write (V := [.settings]) 0x18 i vs rfl rfl rfl
  case writeTable h o i vs => exact write o i vs (writeParts_table o (Bool.and_eq_true_iff.mp wf).2) rfl rfl
  case commit => exact req commitRequest_only rfl rfl
  case copy => exact req (copyRequest_only _) rfl rfl
  case modeStreaming => exact req modeStreaming_only rfl rfl
  case modeStandbyDrain => exact req modeDrain_only rfl rfl
  case modeStandbyFlush => exact req modeFlush_only rfl rfl
  case clearFlags => exact req (fun s => clearRequest_only _ _ s) rfl rfl
  case clearGradeCounters => exact req (fun s => clearRequest_only _ _ s) rfl rfl
  case clearRejectedCount => exact req (fun s => clearRequest_only _ _ s) rfl rfl
  case testHold => exact req (fun s => testRequest_only _ _ _ _ s) rfl rfl
  case testRelease => exact req (fun s => testRequest_only _ _ _ _ s) rfl rfl
  case ident => exact req (V := []) (fun s => Only.refl ..) rfl rfl
  case restart => exact req (restartRequest_only _) rfl rfl
  case modeRequestBadTarget h target =>
    have hb : target.toNat = 0 ∨ 3 < target.toNat := by simpa using wf
    exact req (V := []) (fun s => by rw [modeRequest_bad _ _ hb]; exact Only.refl ..) rfl rfl
  case testRequestBadAction h a l n =>
    have hb : a.toNat = 0 ∨ 2 < a.toNat := by simpa using wf
    exact req (V := []) (fun s' => by rw [testRequest_bad _ _ _ _ _ hb]; exact Only.refl ..) rfl rfl
  case forwardPulse => exact forwardPulse_only ..
  case reversePulse => exact reversePulse_only ..
  case readyRise => exact .via (tryBegin_only _) rfl (.via (setReady_only ..) rfl (.refl ..))
  case sendingCompletion => exact completeSending_only ..
  case silencePosition => exact named silenceReached_only rfl (by simp)
  case overlength => exact named (overlengthReached_only _) rfl (by simp)
  case decisionPoint => exact named (decisionReached_only _) rfl (by simp)
  case retirement => exact named (withNotice_only (retirementReached_only _)) rfl (by simp)
  case forcedSeal => exact named forcedSeal_only rfl (by simp)
  case clearing => exact named (withNotice_only clearSpan_only) rfl (by simp)
  case releasePosition => exact named (releaseFeature_only _) rfl (by simp)
  case firePoint => exact named (firePoint_only _) rfl (by simp)
  case staleExpiry => exact named (staleExpiry_only _) rfl (by simp)
  case divertWindowOpening => exact named (windowOpening_only _) rfl (by simp)
  case divertWindowClosing => exact named (windowClosing_only _) rfl (by simp)
  case blindIntervalOpening => exact named intervalOpening_only rfl (by simp)
  case blindIntervalClosing => exact named (fun _ s => intervalEnds_only s) rfl (by simp)
  case stampStart => exact named (stampStart_only _) rfl (by simp)
  case dotEnd => exact named dotEnd_only rfl (by simp)
  case rowPosition => exact named nextRow_only rfl (by simp)
  case evaluationStart => exact startEvaluation_only ..
  case evaluationCompletion => exact completeEvaluation_only ..
  case copyCompletion => exact completeCopy_only ..
  case commitTakesEffect => exact commitIfQueueEmpty_only ..
  case bankRelease => exact releaseBank_only ..
  case drainEndNotice => exact drainEnd_only ..
  case beginSending => exact tryBegin_only ..
  case powerOn => exact powerOn_only ..
  case pinReset => exact pinReset_only ..
  case loadingEnd => exact endLoading_only ..

/-! ### Any command, well-formed or not -/

/-- Every part but the Option Block and the waiting commands. -/
abbrev anyParts : List Part := .pins :: powerParts

theorem actOnRequest_only (r : ReqHeader) (p : Pins) (q : Option Request) (s : State) :
    Only anyParts s (actOnRequest r p q s).1 := by
  unfold actOnRequest; split
  · exact Only.refl ..
  · exact .via (readRequest_only ..) rfl (.refl ..)
  · next o i vs =>
    refine (writeRequest_only o i vs s).mono ?_
    rcases objectOf o with _ | ⟨_ | _ | _ | _⟩ <;> rfl
  · exact .via (commitRequest_only ..) rfl (.refl ..)
  · exact .via (copyRequest_only ..) rfl (.refl ..)
  · unfold modeRequest; split
    · exact .via (modeStreaming_only ..) rfl (.refl ..)
    · exact .via (modeDrain_only ..) rfl (.refl ..)
    · exact .via (modeFlush_only ..) rfl (.refl ..)
    · exact Only.refl ..
  · exact .via (clearRequest_only ..) rfl (.refl ..)
  · exact .via (testRequest_only ..) rfl (.refl ..)
  · exact Only.refl ..
  · exact .via (restartRequest_only ..) rfl (.refl ..)

theorem takeRecord_only (r : ScanRecord) (s : State) : Only anyParts s (takeRecord r s) := by
  cases r with
  | frame => exact .via (frameRecordTaken_only ..) rfl (.refl ..)
  | openSheet => exact takeTraffic_only _ _ _ _ (fun _ _ => .via (takeOpen_only ..) rfl (.refl ..)) rfl
  | feature => exact takeTraffic_only _ _ _ _ (fun _ _ => .via (takeFeature_only ..) rfl (.refl ..)) rfl
  | moist => exact takeTraffic_only _ _ _ _ (fun _ _ => .via (takeMoist_only ..) rfl (.refl ..)) rfl
  | closeSheet => exact takeTraffic_only _ _ _ _ (fun _ _ => .via (takeClose_only ..) rfl (.refl ..)) rfl
  | request => exact takeRequest_only (fun s => actOnRequest_only _ _ _ s) rfl

theorem judgeRecord_any (bytes : List Byte) (s : State) : Only anyParts s (judgeRecord bytes s) := by
  have e : Only anyParts s (endFraming s) := (endFraming_only s).mono rfl
  unfold judgeRecord; dsimp only; split
  · exact e
  · split
    · exact e.trans (takeRecord_only ..)
    · exact e.trans ((rejectRecord_only _).mono rfl)

theorem takeLine_any (line : List LineSymbol) (s : State) : Only anyParts s (takeLine line s) := by
  refine only_foldl (fun s x => ?_) _ _
  have f : ∀ v s, Only anyParts s (setFraming v s) := fun v s => (setFraming_only v s).mono rfl
  unfold lineSymbol; split
  · exact ((startMark_only s).mono rfl).trans (f _ _)
  · exact Only.refl ..
  · exact f _ _
  · exact Only.refl ..
  · exact (endFraming_only s).mono rfl
  · exact judgeRecord_any ..

end Sys2Proof.Machine
end

