-- ==== Sys2Proof/Laws/Invariants.lean ====
section
/-! SUPPORT. How an invariant is shown to be kept: `Stable I` lists the few operations an invariant has to survive, and
`Stable.step` carries it through every command, well-formed or not. -/
namespace Sys2Proof.Machine
open Sys2Proof.Safety

/-- The parts of State that no invariant over the queue of sheets, the holds, the link or the mode looks at. -/
abbrev otherParts : List Part :=
  [.scan, .rejected, .position, .watches, .settings, .tagCounter, .banks, .copyInFlight, .commitPending, .copyReply,
   .flags, .grades, .startup, .optionBlock, .options, .draws, .pending]

/-- An invariant that survives the operations listed survives every command, if it survives the resets and the end of
LOADING as well. -/
structure Stable (I : State → Prop) : Prop where
  other : ∀ {s t : State}, Only otherParts s t → I s → I t
  modify : ∀ (tag : Tag) (f : Entry → Entry) (s : State), keepsHold f → I s → I (modifyEntry tag f s)
  offered : ∀ (r : OutRecord) (s : State), I s → I (offer r s)
  begun : ∀ s : State, I s → I (tryBegin s)
  withdrawn : ∀ (tag : Tag) (s : State), I s → I (withdraw tag s)
  fired : ∀ (tag : Tag) (w : Watch) (s : State), I s → I (firePoint tag w s)
  completed : ∀ (b : Bool) (s : State), I s → I (completeSending b s)
  pinsKept : ∀ (p : Pins) (s : State), p.ready = s.pins.ready → I s → I (s.setPins p)
  pinsRead : ∀ (p : Pins) (s : State), I s → I (tryBegin (s.setPins p))
  bankReleased : ∀ (c : Ctx) (s : State), I s → I (releaseBank c s)
  holdEnded : ∀ (c : Ctx) (tag : Tag) (s : State), I s → I (endHold c tag s)
  committed : ∀ (c : Ctx) (s : State), I s → I (commitEffect c s)
  unlisted : ∀ (tag : Tag) (s : State), I s → I (unlist tag s)
  listed : ∀ (tag : Tag) (s : State), tag ∈ tagsOf s → I s →
    I (s.setEvaluator { s.evaluator with list := s.evaluator.list ++ [tag] })
  started : ∀ s : State, I s → I (startEvaluation s)
  idled : ∀ s : State, I s → I (evaluatorIdle s)
  stampSet : ∀ (v : Option Stamp) (s : State),
    (∀ p, v = some p → p.tag ∈ tagsOf s ∨ ∃ q, s.marker = some q ∧ q.tag = p.tag) → I s → I (s.setMarker v)
  spanSet : ∀ (b : BlindSpan) (s : State), (s.tracker.blind.isSome = true ∨ tracks s) → I s →
    I (s.setTracker { s.tracker with blind := some b })
  intervalSet : ∀ (v : Interval) (s : State),
    (s.tracker.blind.isSome = true ∨ v.phase = .ended ∨ s.interval.phase ≠ .ended) → I s → I (s.setInterval v)
  spanCleared : ∀ s : State, I s → I (intervalEnds (s.setTracker { s.tracker with blind := none }))
  moded : ∀ (m : Mode) (s : State), (m = .streaming ∨ m = .draining) →
    (tracks s ∨ (s.agent.mode = .standby ∧ s.agent.lineTest = none)) → I s → I (setMode m s)
  standby : ∀ s : State, s.tracker.sheets = [] → s.tracker.blind = none → I s → I (setMode .standby s)
  testEnded : ∀ s : State, I s → I (s.setAgent { s.agent with lineTest := none })
  testHeld : ∀ (t : LineTest) (s : State), s.agent.mode = .standby → I s → I (s.setAgent { s.agent with lineTest := some t })
  opened : ∀ (c : Ctx) (p : Position) (f l : Lane) (s : State), s.agent.mode = .streaming →
    s.tracker.sheets.length < Config.sheetQueueMax → I s → I (openEntry c p f l s)
  retired : ∀ (c : Ctx) (e : Entry) (s : State),
    (∃ x, findEntry e.tag s = some x ∧ x.bank = e.bank ∧ x.holding = e.holding) → I s →
    I (abandonEvaluation e.tag
      (let u := markerRetired e.tag (routeRetired c e (removeEntry e.tag s))
       if e.holding then releaseHold c e.bank u else u))
  flushed : ∀ (c : Ctx) (s : State), I s → I (setMode .standby (flush c s))

/-- An invariant that survives every reset. -/
structure ResetStable (I : State → Prop) : Prop where
  reset : ∀ (r : StartRecord) (s : State), I s → I (warmReset r s)
  power : ∀ s : State, I s → I (powerOn s)

namespace Stable

variable {I : State → Prop} (h : Stable I)
include h

theorem via {W : List Part} {s t : State} (k : Only W s t) (sub : (W.all fun p => otherParts.contains p) = true)
    (i : I s) : I t := h.other (k.mono sub) i

theorem armed (c : Ctx) (k : WatchKind) (p : Position) {s : State} (i : I s) : I (arm c k p s) := h.via (arm_only ..) rfl i
theorem disarmed (k : WatchKind) {s : State} (i : I s) : I (disarm k s) := h.via (disarm_only ..) rfl i

omit h in
theorem entry {tag : Tag} {f : Entry → State → State} {s : State} (i : I s)
    (k : ∀ e, findEntry tag s = some e → I (f e s)) : I (withEntry tag f s) := by
  unfold withEntry; split
  · next e he => exact k e he
  · exact i

theorem raised (c : Ctx) (f : Flag) {s : State} (i : I s) : I (raise c f s) := by
  have j : I (setFlag f s) := h.via (setFlag_only ..) rfl i
  unfold raise; split
  · exact i
  · dsimp only; split
    · exact h.offered _ _ j
    · exact j

omit h in
theorem folded {α : Type} {f : State → α → State} (k : ∀ s a, I s → I (f s a)) :
    ∀ (l : List α) (s : State), I s → I (l.foldl f s)
  | [], _, i => i
  | a :: l, s, i => folded k l _ (k s a i)

/-! ### Banks and evaluation -/

theorem commitIfPending (c : Ctx) {s : State} (i : I s) : I (commitIfPending c s) := by
  unfold Machine.commitIfPending; split
  · exact h.committed _ _ i
  · exact i

theorem commitIfQueueEmpty (c : Ctx) {s : State} (i : I s) : I (commitIfQueueEmpty c s) := by
  unfold Machine.commitIfQueueEmpty; split
  · exact h.commitIfPending _ i
  · exact i

theorem completeCopy {s : State} (i : I s) : I (completeCopy s) := by
  unfold Machine.completeCopy; split
  · have j : I ((s.setTables { s.tables.setBank s.tables.other (s.tables.bank s.tables.active) with
        copyInFlight := false }).setAgent { s.agent with copyReply := none }) := by
      refine h.other ?_ i
      cases k : s.tables.other <;> constructor <;> simp [holdingsOf, TableStore.setBank]
    dsimp only; split
    · split
      · exact h.offered _ _ j
      · exact j
    · exact j
  · exact i

theorem routeDecided (c : Ctx) (tag : Tag) {s : State} (i : I s) : I (routeDecided c tag s) :=
  h.via (routeDecided_only ..) rfl i
theorem markerDecided (c : Ctx) (tag : Tag) (b : Bool) {s : State} (i : I s) : I (markerDecided c tag b s) :=
  h.via (markerDecided_only ..) rfl i

theorem decideAs (c : Ctx) (d : Decision) (tag : Tag) (e : Entry) {s : State} (i : I s) : I (decideAs c d tag e s) :=
  h.markerDecided _ _ _ (h.routeDecided _ _ (h.unlisted _ _ (h.modify _ _ _ (fun _ => ⟨rfl, rfl, rfl⟩) i)))

theorem decideEntry (c : Ctx) (src : DecisionSource) (tag : Tag) {s : State} (i : I s) : I (decideEntry c src tag s) :=
  Stable.entry i fun _ _ => h.decideAs _ _ _ _ i

theorem markSuspect (c : Ctx) (own : EntryFlags → EntryFlags) (tag : Tag) {s : State} (i : I s) :
    I (markSuspect c own tag s) := by
  refine Stable.entry i fun e _ => ?_
  have j : I (flagSuspect own tag s) := h.modify _ _ _ (fun _ => ⟨rfl, rfl, rfl⟩) i
  dsimp only; split
  · exact j
  · split
    · exact h.holdEnded _ _ _ (h.decideEntry _ _ _ j)
    · split
      · exact h.decideAs _ _ _ _ j
      · exact j

theorem markAll (c : Ctx) (own : EntryFlags → EntryFlags) (tags : List Tag) {s : State} (i : I s) :
    I (markAll c own tags s) := Stable.folded (fun _ _ j => h.markSuspect _ _ _ j) _ _ i

theorem setEvalStatus (st : EvalStatus) (tag : Tag) {s : State} (i : I s) : I (setEvalStatus st tag s) :=
  h.modify _ _ _ (fun _ => ⟨rfl, rfl, rfl⟩) i

theorem applyResult (c : Ctx) (f : InFlight) {s : State} (i : I s) : I (applyResult c f s) := by
  refine Stable.entry i fun e _ => ?_
  dsimp only; split
  · exact h.setEvalStatus _ _ (h.decideEntry _ _ _ i)
  · split
    · exact h.setEvalStatus _ _ (h.modify _ _ _ (fun _ => ⟨rfl, rfl, rfl⟩) i)
    · exact h.setEvalStatus _ _ i

theorem completeEvaluation {s : State} (i : I s) : I (completeEvaluation s) := by
  unfold Machine.completeEvaluation; split
  · exact h.started _ (h.idled _ (h.holdEnded _ _ _ (h.applyResult _ _ i)))
  · exact i

/-! ### Features -/

theorem tallyFeature (c : Ctx) (tag : Tag) (kind : BitVec 5) (band : Fin 4) (along across : Word) (z : Zone) {s : State}
    (i : I s) : I (tallyFeature c tag kind band along across z s) := by
  refine Stable.entry i fun e _ => ?_
  dsimp only; split
  · exact h.decideEntry _ _ _ (h.modify _ _ _ (fun _ => ⟨rfl, rfl, rfl⟩) i)
  · exact h.modify _ _ _ (fun _ => ⟨rfl, rfl, rfl⟩) i

theorem tallyHeld (c : Ctx) (tag : Tag) (z : Zone) (x : HeldFeature) {s : State} (i : I s) : I (tallyHeld c tag z x s) :=
  h.tallyFeature _ _ _ _ _ _ _ i

theorem holdFeature (c : Ctx) (tag : Tag) (x : HeldFeature) {s : State} (i : I s) : I (holdFeature c tag x s) := by
  refine h.armed _ _ _ (h.modify _ _ _ (fun _ => ⟨rfl, rfl, rfl⟩) ?_)
  refine Stable.entry i fun e _ => ?_
  split
  · split
    · exact h.tallyHeld _ _ _ _ (h.via (disarmFirst_only ..) rfl (h.modify _ _ _ (fun _ => ⟨rfl, rfl, rfl⟩) i))
    · exact i
  · exact i

theorem classifyFeature (c : Ctx) (tag : Tag) (lane : Lane) (kind : BitVec 5) (along across : Word) (p : Position)
    {s : State} (i : I s) : I (classifyFeature c tag lane kind along across p s) := by
  refine Stable.entry i fun e _ => ?_
  dsimp only; split
  · exact h.tallyFeature _ _ _ _ _ _ _ i
  · split
    · exact h.tallyFeature _ _ _ _ _ _ _ i
    · exact h.holdFeature _ _ _ i

theorem releaseFeature (tag : Tag) (w : Watch) {s : State} (i : I s) : I (releaseFeature tag w s) := by
  refine Stable.entry i fun e _ => ?_
  split
  · exact h.tallyHeld _ _ _ _ (h.modify _ _ _ (fun _ => ⟨rfl, rfl, rfl⟩) i)
  · exact i

theorem emptyHold (c : Ctx) (tag : Tag) {s : State} (i : I s) : I (emptyHold c tag s) :=
  Stable.entry i fun _ _ => Stable.folded (fun _ _ j => h.tallyHeld _ _ _ _ (h.via (disarmFirst_only ..) rfl j)) _ _
    (h.modify _ _ _ (fun _ => ⟨rfl, rfl, rfl⟩) i)

/-! ### Closing -/

omit h in
theorem findEntry_mem {tag : Tag} {s : State} {e : Entry} (k : findEntry tag s = some e) :
    e ∈ s.tracker.sheets ∧ e.tag = tag := by
  unfold findEntry at k
  exact ⟨List.mem_of_find?_eq_some k, by simpa using List.find?_some k⟩

theorem settleClosed (c : Ctx) (tag : Tag) {s : State} (i : I s) : I (settleClosed c tag s) := by
  refine Stable.entry i fun e he => ?_
  split
  · exact h.decideEntry _ _ _ i
  · split
    · exact i
    · refine h.started _ (h.setEvalStatus _ _ (h.listed _ _ ?_ i))
      obtain ⟨m, rfl⟩ := findEntry_mem he
      exact List.mem_map_of_mem m

theorem closeEntry (c : Ctx) (tag : Tag) (p : Position) {s : State} (i : I s) : I (closeEntry c tag p s) := by
  refine Stable.entry i fun e _ => ?_
  exact h.holdEnded _ _ _ (h.settleClosed _ _ (h.emptyHold _ _ (h.armed _ _ _ (h.disarmed _
    (h.modify _ (fun e => e.closedAt p) _ (Entry.closedAt_keeps p) i)))))

theorem forceCloseAll (c : Ctx) (own : EntryFlags → EntryFlags) (tags : List Tag) (p : Position) {s : State} (i : I s) :
    I (forceCloseAll c own tags p s) := Stable.folded (fun _ _ j => h.closeEntry _ _ _ (h.markSuspect _ _ _ j)) _ _ i

theorem drainEnd (c : Ctx) {s : State} (i : I s) : I (drainEnd c s) := by
  unfold Machine.drainEnd; split
  · next k =>
    simp only [Bool.and_eq_true, List.isEmpty_iff, Option.isNone_iff_eq_none] at k
    exact h.raised _ _ (h.disarmed _ (h.standby _ k.1.2 k.2 i))
  · exact i

/-! ### The Blind Span -/

theorem intervalEnds {s : State} (i : I s) : I (intervalEnds s) :=
  h.disarmed _ (h.disarmed _ (h.intervalSet _ _ (.inr (.inl rfl)) i))

theorem blindOpen (c : Ctx) (p : Position) {s : State} (k : tracks s) (i : I s) : I (blindOpen c p s) := by
  unfold Machine.blindOpen; split
  · dsimp only
    refine h.armed _ _ _ (h.disarmed _ (h.disarmed _ (h.intervalSet _ _ (.inl ?_)
      (h.raised _ _ (h.armed _ _ _ (h.spanSet _ _ (.inr k) i))))))
    rw [((raise_only _ _ _).blind.resolve_left (by simp)).trans ((arm_only _ _ _ _).blind.resolve_left (by simp))]
    rfl
  · next b hb =>
    have j := h.armed c .forcedSeal (p + maxSheet (s.setTracker { s.tracker with
      blind := some { b with outstanding := satInc 255 b.outstanding, latest := p, sealState := .unsealed } }))
      (h.disarmed .forcedSeal (h.spanSet { b with outstanding := satInc 255 b.outstanding, latest := p, sealState := .unsealed }
        s (.inr k) i))
    dsimp only; split
    · refine h.disarmed _ (h.intervalSet _ _ (.inl ?_) (h.raised _ _ (h.disarmed _ j)))
      rw [((raise_only _ _ _).blind.resolve_left (by simp)).trans
        (((disarm_only _ _).blind.resolve_left (by simp)).trans (((arm_only _ _ _ _).blind.resolve_left (by simp)).trans
          ((disarm_only _ _).blind.resolve_left (by simp))))]
      rfl
    · exact j

theorem sealSpan (c : Ctx) (b : BlindSpan) (p : Position) {s : State} (k : s.tracker.blind.isSome = true) (i : I s) :
    I (sealSpan c b p s) := by
  refine h.armed _ _ _ (h.disarmed _ (h.intervalSet _ _ (.inl ?_) (h.armed _ _ _ (h.disarmed _ (h.spanSet _ _ (.inl k) i)))))
  rw [((arm_only _ _ _ _).blind.resolve_left (by simp)).trans ((disarm_only _ _).blind.resolve_left (by simp))]
  rfl

theorem blindClose (c : Ctx) (b : BlindSpan) (p : Position) {s : State} (k : s.tracker.blind.isSome = true) (i : I s) :
    I (blindClose c b p s) := by
  unfold Machine.blindClose; dsimp only; split
  · exact h.sealSpan _ _ _ k i
  · exact h.spanSet _ _ (.inl k) i

theorem forcedSeal (w : Watch) {s : State} (i : I s) : I (forcedSeal w s) := by
  unfold Machine.forcedSeal; split
  · next b hb =>
    split
    · exact h.sealSpan _ _ _ (by simp [hb]) i
    · exact i
  · exact i

theorem giveNotice (n : Bool) (c : Ctx) {s : State} (i : I s) : I (giveNotice n c s) := by
  unfold Machine.giveNotice; split
  · exact h.drainEnd _ i
  · exact i

theorem clearSpan (n : Bool) (w : Watch) {s : State} (i : I s) : I (clearSpan n w s) := by
  unfold Machine.clearSpan; split
  · split
    · exact h.giveNotice _ _ (h.spanCleared _ i)
    · exact i
  · exact i

/-! ### Opening, attribution, positions -/

omit h in
theorem tracks_only {W : List Part} {s t : State} (k : Only W s t) (m : Part.mode ∉ W) (a : tracks s) : tracks t := by
  unfold tracks; rw [k.mode.resolve_left m]; exact a

theorem spanConflict (c : Ctx) (p : Position) (f l : Lane) {s : State} (i : I s) : I (spanConflict c p f l s) := by
  unfold Machine.spanConflict; split
  · exact i
  · exact h.raised _ _ (h.forceCloseAll _ _ _ _ i)

theorem takeOpen (f l : Lane) (o : Byte) (p : Position) {s : State} (k : tracks s) (i : I s) : I (takeOpen f l o p s) := by
  have j := h.spanConflict (Ctx.now s) (placed s p o) f l i
  have k := tracks_only (spanConflict_only (Ctx.now s) (placed s p o) f l s) (by simp) k
  unfold Machine.takeOpen; dsimp only; split
  · next a =>
    simp only [Bool.and_eq_true, decide_eq_true_eq] at a
    exact h.opened _ _ _ _ _ a.1 a.2 j
  · exact h.blindOpen _ _ k j

theorem unattributed {s : State} (i : I s) : I (unattributed s) := by
  unfold Machine.unattributed; split
  · exact i
  · exact h.raised _ _ i

theorem takeFeature (lane : Lane) (kind : BitVec 5) (a w : Word) (o : Byte) (p : Position) {s : State} (i : I s) :
    I (takeFeature lane kind a w o p s) := by
  unfold Machine.takeFeature; split
  · exact h.classifyFeature _ _ _ _ _ _ _ i
  · exact h.unattributed i

theorem takeMoist (lane : Lane) (r t : Word) {s : State} (i : I s) : I (takeMoist lane r t s) := by
  unfold Machine.takeMoist; split
  · exact Stable.entry i fun _ _ => h.modify _ _ _ (fun _ => ⟨rfl, rfl, rfl⟩) i
  · exact h.unattributed i

theorem takeClose (f l : Lane) (o : Byte) (p : Position) {s : State} (i : I s) : I (takeClose f l o p s) := by
  unfold Machine.takeClose; dsimp only; split
  · refine h.closeEntry _ _ _ ?_
    split
    · exact i
    · exact h.markSuspect _ _ _ i
  · split
    · next b hb =>
      split
      · exact h.blindClose _ _ _ (by simp [hb]) i
      · exact h.raised _ _ i
    · exact h.raised _ _ i

theorem silenceReached (w : Watch) {s : State} (i : I s) : I (silenceReached w s) := by
  unfold Machine.silenceReached; split
  · exact h.forceCloseAll _ _ _ _ (h.raised _ _ (h.via (setScan_only _ _ rfl) rfl i))
  · exact i

theorem overlengthReached (tag : Tag) (w : Watch) {s : State} (i : I s) : I (overlengthReached tag w s) := by
  refine Stable.entry i fun e _ => ?_
  split
  · exact h.closeEntry _ _ _ (h.raised _ _ (h.markSuspect _ _ _ i))
  · exact i

theorem decisionReached (tag : Tag) (w : Watch) {s : State} (i : I s) : I (decisionReached tag w s) := by
  refine Stable.entry i fun e _ => ?_
  split
  · exact h.raised _ _ (h.holdEnded _ _ _ (h.decideEntry _ _ _ i))
  · exact i

theorem reportAndCount (e : Entry) {s : State} (i : I s) : I (reportAndCount e s) := by
  have k : ∀ g {s : State}, I s → I (countGrade g s) := fun g _ j => h.via (countGrade_only ..) rfl j
  unfold Machine.reportAndCount; split
  · refine k _ ?_
    split
    · exact h.offered _ _ i
    · exact i
  · exact i

omit h in
/-- The entry of a tag, through a change that leaves tags, banks and holds. -/
theorem find_holdings (tag : Tag) : ∀ (l l' : List Entry) (e : Entry),
    l'.map (fun e => (e.tag, e.bank, e.holding)) = l.map (fun e => (e.tag, e.bank, e.holding)) →
    l.find? (fun e => e.tag = tag) = some e →
    ∃ x, l'.find? (fun e => e.tag = tag) = some x ∧ x.bank = e.bank ∧ x.holding = e.holding
  | [], _, _, _, k => by simp at k
  | a :: l, [], _, m, _ => by simp at m
  | a :: l, b :: l', e, m, k => by
    simp only [List.map_cons, List.cons.injEq, Prod.mk.injEq] at m
    obtain ⟨⟨mt, mb, mh⟩, ml⟩ := m
    by_cases ht : a.tag = tag
    · have : b.tag = tag := mt.trans ht
      simp only [List.find?_cons, ht, decide_true, Option.some.injEq] at k
      subst k
      exact ⟨b, by simp [this], mb, mh⟩
    · have hb : b.tag ≠ tag := fun h => ht (mt.symm.trans h)
      simp only [List.find?_cons, ht, hb, decide_false] at k ⊢
      exact find_holdings tag l l' e ml k

theorem retireEntry (n : Bool) (c : Ctx) (e : Entry) {s : State} (k : findEntry e.tag s = some e) (i : I s) :
    I (retireEntry n c e s) := by
  have r : Only [.entries, .watches, .link, .flags, .grades] s (Machine.reportAndCount e s) := by
    have k : ∀ g s, Only [.grades] s (countGrade g s) := countGrade_only
    unfold Machine.reportAndCount; split
    · refine .via (k _ _) rfl ?_
      split
      · exact .via (offer_only ..) rfl (.refl ..)
      · exact Only.refl ..
    · exact Only.refl ..
  have m := find_holdings e.tag _ (Machine.reportAndCount e s).tracker.sheets e (r.holdings.resolve_left (by simp)) k
  exact h.giveNotice _ _ (h.commitIfQueueEmpty _ (h.retired c e _ m (h.reportAndCount e i)))

theorem retirementReached (tag : Tag) (n : Bool) (w : Watch) {s : State} (i : I s) :
    I (retirementReached tag n w s) := by
  refine Stable.entry i fun e he => ?_
  split
  · exact i
  · have := (findEntry_mem he).2
    exact h.retireEntry _ _ _ (this ▸ he) i

/-! ### Watched positions and pulses -/

theorem stampStart (tag : Tag) (w : Watch) {s : State} (i : I s) : I (stampStart tag w s) := by
  unfold Machine.stampStart; dsimp only
  refine Stable.entry i fun e he => ?_
  split
  · exact h.modify _ _ _ (fun _ => ⟨rfl, rfl, rfl⟩) i
  · split
    · split
      · exact i
      · exact h.raised _ _ (h.modify _ _ _ (fun _ => ⟨rfl, rfl, rfl⟩) i)
      · refine h.armed _ _ _ (h.stampSet _ _ ?_ i)
        rintro p ⟨rfl⟩
        obtain ⟨m, rfl⟩ := findEntry_mem he
        exact .inl (List.mem_map_of_mem m)
    · exact i

theorem dotEnd (w : Watch) {s : State} (i : I s) : I (dotEnd w s) := by
  unfold Machine.dotEnd
  split
  · next p hp =>
    split
    · exact h.stampSet _ _ (by simp) i
    · exact h.armed _ _ _ (h.stampSet _ _ (by rintro _ ⟨rfl⟩; exact .inr ⟨p, hp, rfl⟩) i)
  · exact i

theorem nextRow (w : Watch) {s : State} (i : I s) : I (nextRow w s) := by
  unfold Machine.nextRow
  split
  · next p hp => exact h.armed _ _ _ (h.stampSet _ _ (by rintro _ ⟨rfl⟩; exact .inr ⟨p, hp, rfl⟩) i)
  · exact i

theorem divertEntry (c : Ctx) (tag : Tag) {s : State} (i : I s) : I (divertEntry c tag s) := by
  unfold Machine.divertEntry
  exact Stable.entry i fun e _ => h.raised _ _ (h.armed _ _ _ (h.armed _ _ _ (h.modify _ _ _ (fun _ => ⟨rfl, rfl, rfl⟩) i)))

theorem staleExpiry (tag : Tag) (w : Watch) {s : State} (i : I s) : I (staleExpiry tag w s) := by
  unfold Machine.staleExpiry
  refine Stable.entry i fun e _ => ?_
  split
  · exact h.divertEntry _ _ (h.modify _ _ _ (fun _ => ⟨rfl, rfl, rfl⟩) (h.withdrawn _ _ i))
  · exact i

theorem windowOpening (tag : Tag) (w : Watch) {s : State} (i : I s) : I (windowOpening tag w s) := by
  unfold Machine.windowOpening
  exact h.modify _ _ _ (fun e => by split <;> exact ⟨rfl, rfl, rfl⟩) i
theorem windowClosing (tag : Tag) (w : Watch) {s : State} (i : I s) : I (windowClosing tag w s) := by
  unfold Machine.windowClosing
  exact h.modify _ _ _ (fun _ => ⟨rfl, rfl, rfl⟩) i

theorem actOn (w : Watch) {s : State} (i : I s) : I (actOn w s) := by
  unfold Machine.actOn; split
  · exact h.silenceReached _ i
  · exact h.overlengthReached _ _ i
  · exact h.decisionReached _ _ i
  · exact h.retirementReached _ _ _ i
  · exact h.forcedSeal _ i
  · exact h.clearSpan _ _ i
  · exact h.releaseFeature _ _ i
  · exact h.fired _ _ _ i
  · exact h.staleExpiry _ _ i
  · exact h.windowOpening _ _ i
  · exact h.windowClosing _ _ i
  · unfold intervalOpening; split
    · next k => exact h.intervalSet _ _ (.inr (.inr (by simp [k]))) i
    · exact i
  · exact h.intervalEnds i
  · exact h.stampStart _ _ i
  · exact h.dotEnd _ i
  · exact h.nextRow _ i

theorem dropped (w : Watch) {s : State} (i : I s) : I (dropWatch w s) := h.via (dropWatch_only ..) rfl i

theorem takeNext (w : Watcher) {s : State} (i : I s) : I (takeNext w s) := by
  unfold Machine.takeNext; split
  · exact h.actOn _ (h.dropped _ i)
  · exact i

theorem takeAny {s t : State} (k : takeAny s = some t) (i : I s) : I t := by
  unfold Machine.takeAny at k; split at k
  · cases k
  · cases k; exact h.takeNext _ i
  · cases k; exact h.takeNext _ (h.via (draw_only s) rfl i)

theorem settleFuel : ∀ (n : Nat) {s : State}, I s → I (settleFuel n s)
  | 0, _, i => i
  | n + 1, s, i => by
    unfold Machine.settleFuel; split
    · exact i
    · next k => exact settleFuel n (h.takeAny k i)

theorem settle {s : State} (i : I s) : I (settle s) := h.settleFuel _ i

theorem named {k : WatchKind} {act : Watch → State → State} (a : ∀ w s, I s → I (act w s)) {s : State} (i : I s) :
    I (takeNamed k act s) := by
  unfold takeNamed; split
  · split
    · exact a _ _ (h.dropped _ i)
    · exact i
  · exact i

theorem withNotice {act : Bool → Watch → State → State} (a : ∀ b w s, I s → I (act b w s)) (w : Watch) {s : State}
    (i : I s) : I (withNotice act w s) := a _ _ _ (h.via (draw_only s) rfl i)

theorem beltAdvance (b : Bool) (n : Nat) {s : State} (i : I s) : I (beltAdvance b n s) := by
  have j : I (advanceBelt n (Machine.settle s)) := h.via (advanceBelt_only ..) rfl (h.settle i)
  unfold Machine.beltAdvance; dsimp only; split
  · exact h.settle j
  · exact j

theorem positioned (v : PositionUnit) {s : State} (i : I s) : I (s.setPosition v) := h.via (setPosition_only ..) rfl i

theorem forwardPulse (b : Bool) {s : State} (i : I s) : I (forwardPulse b s) := by
  have j : I (pulseLevels false s) := h.pinsKept _ _ rfl i
  unfold Machine.forwardPulse; dsimp only; split
  · exact j
  · split
    · exact h.positioned _ j
    · unfold countPulse; split
      · split
        · exact h.beltAdvance _ _ (h.positioned _ j)
        · exact h.positioned _ j
      · exact h.beltAdvance _ _ j

theorem reversePulse {s : State} (i : I s) : I (reversePulse s) := by
  have j : I (pulseLevels true s) := h.pinsKept _ _ rfl i
  unfold Machine.reversePulse; dsimp only; split
  · exact j
  · split
    · exact h.positioned _ j
    · exact h.markAll _ _ _ (h.raised _ _ (h.positioned _ j))

/-! ### Records and requests -/

theorem unframed {s : State} (i : I s) : I (endFraming s) := h.via (endFraming_only s) rfl i

theorem rejectRecord {s : State} (i : I s) : I (rejectRecord s) := by
  refine h.raised _ _ (h.other ?_ i)
  constructor <;> simp [holdingsOf]

theorem startMark {s : State} (i : I s) : I (startMark s) := by
  unfold Machine.startMark; split
  · exact i
  · unfold loseEnd; dsimp only; split
    · exact h.unframed i
    · exact h.rejectRecord (h.unframed i)

theorem takeTraffic (deck : BitVec 1) (ok : Bool) (act : Position → State → State)
    (a : ∀ p s, tracks s → I s → I (act p s)) {s : State} (i : I s) : I (takeTraffic deck ok act s) := by
  have e := h.startMark i
  have m : ∀ s : State, (armSilence s).agent.mode = s.agent.mode := fun s =>
    (armSilence_only _).mode.resolve_left (by simp)
  have act' : tracks (Machine.startMark s) →
      I (act (Machine.startMark s).position.belt (armSilence (Machine.startMark s))) := fun k =>
    a _ _ (by unfold tracks; rw [m]; exact k) (h.via (armSilence_only _) rfl e)
  unfold Machine.takeTraffic; dsimp only; split
  · exact e
  · split
    · exact e
    · split
      · exact e
      · exact h.rejectRecord e
  · next k =>
    split
    · exact e
    · split
      · exact act' (.inl k)
      · exact h.rejectRecord e
  · next k =>
    split
    · exact e
    · split
      · exact act' (.inr k)
      · exact h.rejectRecord e

theorem numberFrame (n : Word) {s : State} (i : I s) : I (numberFrame n s) := by
  unfold Machine.numberFrame; dsimp only
  refine h.via (setScan_only _ _ rfl) rfl ?_
  split
  · exact i
  · split
    · exact i
    · exact h.markAll _ _ _ (h.raised _ _ i)

theorem takeRequest (r : ReqHeader) {act : State → State × Option Answer} (a : ∀ s, I s → I (act s).1) {s : State}
    (i : I s) : I (takeRequest r act s) := by
  have e := h.startMark i
  unfold Machine.takeRequest; dsimp only; split
  · exact e
  · split
    · split
      · split
        · exact h.offered _ _ (a _ e)
        · exact a _ e
      · exact a _ e
    · exact e

theorem readRequest (o sel : Byte) (n : Word) (c : Byte) {s : State} (i : I s) : I (readRequest o sel n c s).1 :=
  h.via (readRequest_only ..) rfl i

theorem writeRequest (o : Byte) (n : Word) (vs : List Word) {s : State} (i : I s) : I (writeRequest o n vs s).1 := by
  refine h.via (writeRequest_only o n vs s) ?_ i
  rcases objectOf o with _ | ⟨_ | _ | _ | _⟩ <;> rfl

theorem commitRequest {s : State} (i : I s) : I (commitRequest s).1 := by
  unfold Machine.commitRequest; split
  · exact i
  · split
    · exact i
    · refine h.commitIfQueueEmpty _ (h.other ?_ i)
      constructor <;> simp [holdingsOf]

theorem modeRequest (target : Byte) {s : State} (i : I s) : I (modeRequest target s).1 := by
  unfold Machine.modeRequest; split
  · unfold modeStreaming; split
    · next k =>
      split
      · exact i
      · refine h.moded _ _ (.inl rfl) (.inr ⟨?_, ?_⟩) (h.via (armSilence_only _) rfl (h.via (setScan_only _ _ rfl) rfl
          (h.testEnded _ i)))
        · rw [(armSilence_only _).mode.resolve_left (by simp)]; exact k
        · rw [(armSilence_only _).lineTest.resolve_left (by simp)]; rfl
    · next k => exact h.moded _ _ (.inl rfl) (.inl (.inr k)) i
    all_goals exact i
  · unfold modeDrain; split
    · next k => exact h.drainEnd _ (h.moded _ _ (.inr rfl) (.inl (.inl k)) i)
    all_goals exact i
  · unfold modeFlush; split
    case h_1 => exact h.flushed _ _ i
    case h_2 => exact h.flushed _ _ i
    all_goals exact i
  · exact i

theorem clearRequest (ch : Byte) (codes : List Byte) {s : State} (i : I s) : I (clearRequest ch codes s).1 :=
  h.via (clearRequest_only ..) rfl i

theorem testRequest (a l : Byte) (n : NozzleSet) (p : Pins) {s : State} (i : I s) : I (testRequest a l n p s).1 := by
  unfold Machine.testRequest; split
  · exact i
  · next k =>
    have k : s.agent.mode = .standby := by simpa using k
    split
    · exact h.pinsRead _ _ (h.testHeld _ _ k i)
    · exact h.pinsRead _ _ (h.testEnded _ i)
    · exact i

theorem actOnRequest (z : ResetStable I) (r : ReqHeader) (p : Pins) (q : Option Request) {s : State} (i : I s) :
    I (actOnRequest r p q s).1 := by
  unfold Machine.actOnRequest; split
  · exact i
  · exact h.readRequest _ _ _ _ i
  · exact h.writeRequest _ _ _ i
  · exact h.commitRequest i
  · exact h.via (copyRequest_only ..) rfl i
  · exact h.modeRequest _ i
  · exact h.clearRequest _ _ i
  · exact h.testRequest _ _ _ _ i
  · exact i
  · exact z.reset _ _ i

theorem frameRecordTaken (d : BitVec 1) (n : Word) {s : State} (i : I s) : I (frameRecordTaken d n s) :=
  h.takeTraffic _ _ _ (fun _ _ _ j => h.numberFrame _ j) i
theorem openRecordTaken (d : BitVec 1) (f l : Lane) (o : Byte) {s : State} (i : I s) : I (openRecordTaken d f l o s) :=
  h.takeTraffic _ _ _ (fun _ _ k j => h.takeOpen _ _ _ _ k j) i
theorem featureRecordTaken (d : BitVec 1) (lane : Lane) (kind : BitVec 5) (a w : Word) (o : Byte) {s : State} (i : I s) :
    I (featureRecordTaken d lane kind a w o s) := h.takeTraffic _ _ _ (fun _ _ _ j => h.takeFeature _ _ _ _ _ _ j) i
theorem moistRecordTaken (d : BitVec 1) (lane : Lane) (r t : Word) {s : State} (i : I s) :
    I (moistRecordTaken d lane r t s) := h.takeTraffic _ _ _ (fun _ _ _ j => h.takeMoist _ _ _ j) i
theorem closeRecordTaken (d : BitVec 1) (f l : Lane) (o : Byte) {s : State} (i : I s) : I (closeRecordTaken d f l o s) :=
  h.takeTraffic _ _ _ (fun _ _ _ j => h.takeClose _ _ _ _ j) i

theorem takeRecord (z : ResetStable I) (r : ScanRecord) {s : State} (i : I s) : I (takeRecord r s) := by
  cases r with
  | frame => exact h.frameRecordTaken _ _ i
  | openSheet => exact h.openRecordTaken _ _ _ _ i
  | feature => exact h.featureRecordTaken _ _ _ _ _ _ i
  | moist => exact h.moistRecordTaken _ _ _ _ i
  | closeSheet => exact h.closeRecordTaken _ _ _ _ i
  | request => exact h.takeRequest _ (fun _ j => h.actOnRequest z _ _ _ j) i

theorem judgeRecord (z : ResetStable I) (bytes : List Byte) {s : State} (i : I s) : I (judgeRecord bytes s) := by
  have e := h.unframed i
  unfold Machine.judgeRecord; dsimp only; split
  · exact e
  · split
    · exact h.takeRecord z _ e
    · exact h.rejectRecord e

theorem lineSymbol (z : ResetStable I) (x : LineSymbol) {s : State} (i : I s) : I (lineSymbol x s) := by
  have f : ∀ v {s : State}, I s → I (setFraming v s) := fun v _ j => h.via (setFraming_only ..) rfl j
  unfold Machine.lineSymbol; split
  · exact f _ (h.startMark i)
  · exact i
  · exact f _ i
  · exact i
  · exact h.unframed i
  · exact h.judgeRecord z _ i

/-! ### Every command, and every step -/

/-- A stable invariant survives every command; the end of LOADING is given. -/
theorem exec (z : ResetStable I) {c : Instr} {s t : State} (k : exec c s = .next t)
    (loaded : ∀ o p, c = .loadingEnd o p → I (endLoading o p s)) (i : I s) : I t := by
  cases c <;> cases k
  case frame => exact h.frameRecordTaken _ _ i
  case openSheet => exact h.openRecordTaken _ _ _ _ i
  case feature => exact h.featureRecordTaken _ _ _ _ _ _ i
  case moist => exact h.moistRecordTaken _ _ _ _ i
  case closeSheet => exact h.closeRecordTaken _ _ _ _ i
  case rejectedRecord => exact Stable.folded (fun _ _ j => h.lineSymbol z _ j) _ _ i
  case unknownRequest => exact h.takeRequest _ (fun _ j => h.actOnRequest z _ _ _ j) i
  case read => exact h.takeRequest _ (fun _ j => h.readRequest _ _ _ _ j) i
  case write => exact h.takeRequest _ (fun _ j => h.writeRequest _ _ _ j) i
  case writePulseMode => exact h.takeRequest _ (fun _ j => h.writeRequest _ _ _ j) i
  case writePulseRatio => exact h.takeRequest _ (fun _ j => h.writeRequest _ _ _ j) i
  case writeReverseLimit => exact h.takeRequest _ (fun _ j => h.writeRequest _ _ _ j) i
  case writeAlertMask => exact h.takeRequest _ (fun _ j => h.writeRequest _ _ _ j) i
  case writeTable => exact h.takeRequest _ (fun _ j => h.writeRequest _ _ _ j) i
  case commit => exact h.takeRequest _ (fun _ j => h.commitRequest j) i
  case copy => exact h.takeRequest _ (fun _ j => h.via (copyRequest_only ..) rfl j) i
  case modeStreaming => exact h.takeRequest _ (fun _ j => h.modeRequest _ j) i
  case modeStandbyDrain => exact h.takeRequest _ (fun _ j => h.modeRequest _ j) i
  case modeStandbyFlush => exact h.takeRequest _ (fun _ j => h.modeRequest _ j) i
  case clearFlags => exact h.takeRequest _ (fun _ j => h.clearRequest _ _ j) i
  case clearGradeCounters => exact h.takeRequest _ (fun _ j => h.clearRequest _ _ j) i
  case clearRejectedCount => exact h.takeRequest _ (fun _ j => h.clearRequest _ _ j) i
  case testHold => exact h.takeRequest _ (fun _ j => h.testRequest _ _ _ _ j) i
  case testRelease => exact h.takeRequest _ (fun _ j => h.testRequest _ _ _ _ j) i
  case ident => exact h.takeRequest _ (fun _ j => j) i
  case restart => exact h.takeRequest _ (fun _ j => z.reset _ _ j) i
  case forwardPulse => exact h.forwardPulse _ i
  case reversePulse => exact h.reversePulse i
  case readyRise => exact h.pinsRead _ _ i
  case silencePosition => exact h.named (fun _ _ j => h.silenceReached _ j) i
  case overlength => exact h.named (fun _ _ j => h.overlengthReached _ _ j) i
  case decisionPoint => exact h.named (fun _ _ j => h.decisionReached _ _ j) i
  case retirement => exact h.named (fun _ _ j => h.withNotice (fun _ _ _ j => h.retirementReached _ _ _ j) _ j) i
  case forcedSeal => exact h.named (fun _ _ j => h.forcedSeal _ j) i
  case clearing => exact h.named (fun _ _ j => h.withNotice (fun _ _ _ j => h.clearSpan _ _ j) _ j) i
  case releasePosition => exact h.named (fun _ _ j => h.releaseFeature _ _ j) i
  case firePoint => exact h.named (fun _ _ j => h.fired _ _ _ j) i
  case staleExpiry => exact h.named (fun _ _ j => h.staleExpiry _ _ j) i
  case divertWindowOpening => exact h.named (fun _ _ j => h.windowOpening _ _ j) i
  case divertWindowClosing => exact h.named (fun _ _ j => h.windowClosing _ _ j) i
  case blindIntervalOpening =>
    exact h.named (fun w _ j => h.actOn ⟨.intervalOpening, w.pos, w.passed, w.due⟩ j) i
  case blindIntervalClosing => exact h.named (fun _ _ j => h.intervalEnds j) i
  case stampStart => exact h.named (fun _ _ j => h.stampStart _ _ j) i
  case dotEnd => exact h.named (fun _ _ j => h.dotEnd _ j) i
  case rowPosition => exact h.named (fun _ _ j => h.nextRow _ j) i
  case evaluationStart => exact h.started _ i
  case evaluationCompletion => exact h.completeEvaluation i
  case copyCompletion => exact h.completeCopy i
  case commitTakesEffect => exact h.commitIfQueueEmpty _ i
  case bankRelease => exact h.bankReleased _ _ i
  case drainEndNotice => exact h.drainEnd _ i
  case beginSending => exact h.begun _ i
  case sendingCompletion => exact h.completed _ _ i
  case powerOn => exact z.power _ i
  case pinReset => unfold pinReset; split <;> exact z.reset _ _ i
  case loadingEnd => exact loaded _ _ rfl
  case modeRequestBadTarget => exact h.takeRequest _ (fun _ j => h.modeRequest _ j) i
  case testRequestBadAction => exact h.takeRequest _ (fun _ j => h.testRequest _ _ _ _ j) i

/-- A stable invariant survives every step; the end of LOADING is given. -/
theorem step (z : ResetStable I) {s t : State} (k : step s = .next t)
    (loaded : ∀ o p u, Only [.pending] s u → I u → I (endLoading o p u)) (i : I s) : I t := by
  unfold Machine.step at k; split at k
  · cases k; exact i
  · next c rest _ =>
    have p : Only [.pending] s (s.setPending rest) := by constructor <;> simp [holdingsOf]
    have j : I (s.setPending rest) := h.other (p.mono rfl) i
    exact h.exec z k (fun o q _ => loaded o q _ p j) j

end Stable
end Sys2Proof.Machine
end

