-- ==== Sys2Proof/Laws/Operations.lean ====
section
/-! SUPPORT. What each shared operation does to the part of State it is about: flags, the link, watched positions, and
one entry of the Sheet Queue. -/
namespace Sys2Proof.Machine
open Sys2Proof.Safety

/-! ### Flags -/

theorem flag_ext {f g : Flag} : f.code = g.code ↔ f = g := by
  constructor
  · cases f <;> cases g <;> decide
  · rintro rfl; rfl

theorem flag_lt (f : Flag) : f.code < 16 := by cases f <;> decide

theorem flagBit_get {n m : Nat} (h : m < 16) : (flagBit n).getLsbD m = decide (m = n) := by
  unfold flagBit
  by_cases k : m = n
  · subst k; simp [h]
  · simp [h, k]; omega

@[simp] theorem flagSet_setFlag (f g : Flag) (s : State) : flagSet (setFlag f s) g = (decide (g = f) || flagSet s g) := by
  simp only [flagSet, setFlag, State.setAttention_attention, BitVec.getLsbD_or, flagBit_get (flag_lt g), flag_ext]
  exact Bool.or_comm ..

theorem flagSet_clearFlagCode (n : Nat) (g : Flag) (s : State) :
    flagSet (clearFlagCode n s) g = (flagSet s g && !decide (g.code = n)) := by
  simp only [flagSet, clearFlagCode, State.setAttention_attention, BitVec.getLsbD_and, BitVec.getLsbD_not,
    flagBit_get (flag_lt g), flag_lt g, decide_true, Bool.true_and]

/-- An operation that names no flag part leaves every flag. -/
theorem Only.flagSet {W : List Part} {s t : State} (k : Only W s t) (n : Part.flags ∉ W) (f : Flag) :
    Machine.flagSet t f = Machine.flagSet s f := by
  unfold Machine.flagSet; rw [k.flags.resolve_left n]

/-- Offering a record sets OUT_DROPPED at most. -/
theorem flagSet_offer (r : OutRecord) (s : State) (f : Flag) :
    flagSet (offer r s) f = flagSet s f ∨ (f = .outDropped ∧ flagSet (offer r s) f = true) := by
  unfold offer; split
  · exact .inl ((place_only r s).flagSet (by simp) f)
  · by_cases h : f = .outDropped
    · exact .inr ⟨h, by simp [h]⟩
    · exact .inl (by simp [h])

theorem flagSet_offer_mono (r : OutRecord) (s : State) (f : Flag) (h : flagSet s f = true) :
    flagSet (offer r s) f = true := (flagSet_offer r s f).elim (fun k => k.trans h) (·.2)

/-- A raised flag is set; another one stays, but for OUT_DROPPED. -/
theorem flagSet_raise (c : Ctx) (f : Flag) (s : State) : flagSet (raise c f s) f = true := by
  unfold raise; split
  · assumption
  · dsimp only; split
    · exact flagSet_offer_mono _ _ _ (by simp)
    · simp

theorem flagSet_raise_other (c : Ctx) (f g : Flag) (s : State) (h : g ≠ f) (o : g ≠ .outDropped) :
    flagSet (raise c f s) g = flagSet s g := by
  unfold raise; split
  · rfl
  · dsimp only; split
    · exact ((flagSet_offer _ _ g).resolve_right fun k => o k.1).trans (by simp [h])
    · simp [h]

theorem flagSet_raise_mono (c : Ctx) (f g : Flag) (s : State) (h : flagSet s g = true) :
    flagSet (raise c f s) g = true := by
  unfold raise; split
  · exact h
  · dsimp only; split
    · exact flagSet_offer_mono _ _ _ (by simp [h])
    · simp [h]

/-! ### The link -/

/-- Sending begins, or nothing changes. -/
theorem tryBegin_cases (s : State) :
    (tryBegin s = s ∧ ¬ (s.pins.ready = true ∧ s.link.sending = none ∧ s.link.queue ≠ [])) ∨
    ∃ r rest, s.link = ⟨r :: rest, none⟩ ∧ s.pins.ready = true ∧
      tryBegin s = routeSent r (s.setLink ⟨rest, some r⟩) := by
  unfold tryBegin; split
  · next r rest a b d =>
    refine .inr ⟨r, rest, ?_, a, rfl⟩
    cases h : s.link; simp_all
  · next hn =>
    refine .inl ⟨rfl, ?_⟩
    rintro ⟨a, b, d⟩
    cases h : s.link.queue with
    | nil => exact d h
    | cons r rest => exact hn r rest a b h

theorem tryBegin_rest {s : State} (h : linkAtRest s) : tryBegin s = s := by
  rcases tryBegin_cases s with k | ⟨r, rest, a, b, _⟩
  · exact k.1
  · have := h b (by rw [a]); rw [a] at this; cases this

/-- A record that is not a ROUTE record, offered while the link is at rest, changes the link and the flags only. -/
theorem offer_rest {r : OutRecord} {s : State} (h : linkAtRest s) (n : r.isRoute = false) :
    Only [.link, .flags] s (offer r s) := by
  unfold offer; split
  · unfold place
    have e : Only [.link, .flags] s (enqueue r s) := (enqueue_only r s).mono rfl
    rcases tryBegin_cases (enqueue r s) with k | ⟨x, rest, a, b, k⟩
    · rw [k.1]; exact e
    · rw [k]
      have hq : s.link.queue = [] := h b (by have := congrArg Link.sending a; simpa [enqueue] using this)
      have hx : x = r := by
        have := congrArg Link.queue a
        simp [enqueue, hq] at this; exact this.1.symm
      have : routeSent x ((enqueue r s).setLink ⟨rest, some x⟩) = (enqueue r s).setLink ⟨rest, some x⟩ := by
        subst hx; cases x <;> first | rfl | (simp [OutRecord.isRoute] at n)
      rw [this]; exact e.trans ((setLink_only ..).mono rfl)
  · exact (setFlag_only ..).mono rfl

theorem raise_rest {c : Ctx} {f : Flag} {s : State} (h : linkAtRest s) : Only [.link, .flags] s (raise c f s) := by
  unfold raise; split
  · exact Only.refl ..
  · have k : Only [.link, .flags] s (setFlag f s) := (setFlag_only ..).mono rfl
    dsimp only; split
    · exact k.trans (offer_rest (s := setFlag f s) h rfl)
    · exact k

/-- The link is at rest after an attempt to begin. -/
theorem linkAtRest_tryBegin (s : State) : linkAtRest (tryBegin s) := by
  rcases tryBegin_cases s with k | ⟨r, rest, a, b, k⟩
  · rw [k.1]; exact fun x y => Classical.byContradiction fun z => k.2 ⟨x, y, z⟩
  · intro _ y
    rw [k, (routeSent_only ..).link.resolve_left (by simp)] at y; cases y

theorem linkAtRest_only {W : List Part} {s t : State} (k : Only W s t) (a : Part.link ∉ W) (b : Part.pins ∉ W)
    (i : linkAtRest s) : linkAtRest t := by
  unfold linkAtRest; rw [k.link.resolve_left a, k.pins.resolve_left b]; exact i

theorem linkAtRest_offer {r : OutRecord} {s : State} (h : linkAtRest s) : linkAtRest (offer r s) := by
  unfold offer; split
  · exact linkAtRest_tryBegin _
  · exact h

theorem linkAtRest_raise {c : Ctx} {f : Flag} {s : State} (h : linkAtRest s) : linkAtRest (raise c f s) := by
  have k : linkAtRest (setFlag f s) := linkAtRest_only (setFlag_only ..) (by simp) (by simp) h
  unfold raise; split
  · exact h
  · dsimp only; split
    · exact linkAtRest_offer k
    · exact k

/-! ### One entry -/

theorem withEntry_some {tag : Tag} {f : Entry → State → State} {s : State} {e : Entry} (h : findEntry tag s = some e) :
    withEntry tag f s = f e s := by unfold withEntry; rw [h]

theorem findEntry_congr {s t : State} (tag : Tag) (h : t.tracker.sheets = s.tracker.sheets) :
    findEntry tag t = findEntry tag s := by unfold findEntry; rw [h]

theorem findEntry_only {W : List Part} {s t : State} (k : Only W s t) (a : Part.entries ∉ W) (tag : Tag) :
    findEntry tag t = findEntry tag s := findEntry_congr tag (k.entries.resolve_left a)

/-- The entry changed by `modifyEntry`, and any other. -/
theorem findEntry_modifyEntry {tag : Tag} {f : Entry → Entry} {s : State} (hf : ∀ e, (f e).tag = e.tag) (x : Tag) :
    findEntry x (modifyEntry tag f s) = (findEntry x s).map fun e => if e.tag = tag then f e else e := by
  unfold findEntry modifyEntry
  simp only [State.setTracker_tracker]
  induction s.tracker.sheets with
  | nil => rfl
  | cons a l ih =>
    have ht : (if a.tag = tag then f a else a).tag = a.tag := by split <;> simp [hf]
    simp only [List.map_cons, List.find?_cons, ht]
    split
    · rfl
    · exact ih

theorem findEntry_modifyEntry_self {tag : Tag} {f : Entry → Entry} {s : State} {e : Entry} (hf : ∀ e, (f e).tag = e.tag)
    (h : findEntry tag s = some e) : findEntry tag (modifyEntry tag f s) = some (f e) := by
  rw [findEntry_modifyEntry hf, h]
  have : e.tag = tag := (Stable.findEntry_mem h).2
  simp [this]

/-! ### Watched positions -/

theorem watched_arm (c : Ctx) (k : WatchKind) (p : Position) (s : State) : watched (arm c k p s) k p :=
  ⟨⟨k, p, before p s.position.belt, decide (c.watcher = some k.watcher) && reached s.position.belt p⟩,
    by simp [arm], rfl, rfl⟩

theorem watched_arm_mono {c : Ctx} {k j : WatchKind} {p q : Position} {s : State} (h : watched s j q) :
    watched (arm c k p s) j q := by
  obtain ⟨w, m, a, b⟩ := h; exact ⟨w, by simp [arm, m], a, b⟩

theorem watched_disarm {k j : WatchKind} {q : Position} {s : State} (n : j ≠ k) (h : watched s j q) :
    watched (disarm k s) j q := by
  obtain ⟨w, m, a, b⟩ := h; exact ⟨w, by simp [disarm, m, a, n], a, b⟩

theorem watched_congr {s t : State} {k : WatchKind} {p : Position} (e : t.watches = s.watches) (h : watched s k p) :
    watched t k p := by unfold watched; rw [e]; exact h

theorem unwatched_disarm (k : WatchKind) (s : State) : unwatched (disarm k s) k := by
  intro w m; simp [disarm] at m; exact m.2

theorem unwatched_congr {s t : State} {k : WatchKind} (e : t.watches = s.watches) (h : unwatched s k) :
    unwatched t k := by unfold unwatched; rw [e]; exact h

theorem unwatched_arm {c : Ctx} {k j : WatchKind} {p : Position} {s : State} (n : k ≠ j) (h : unwatched s j) :
    unwatched (arm c k p s) j := by
  intro w m; simp [arm] at m
  rcases m with m | rfl
  · exact h w m
  · exact n

/-- A command of a position that is due next runs its watcher's rule. -/
theorem takeNamed_due {k : WatchKind} {act : Watch → State → State} {s : State} {w : Watch} (h : comesDue s k w) :
    takeNamed k act s = act w (dropWatch w s) := by
  unfold takeNamed; rw [h.1]; simp [h.2]

/-! ### Requests -/

/-- With no record in progress a start mark changes nothing. -/
theorem startMark_hunting {s : State} (f : s.scan.framing = .hunting) : startMark s = s := by
  unfold startMark; rw [f]

/-- After a start mark no record is in progress. -/
theorem startMark_framing (s : State) : (startMark s).scan.framing = .hunting := by
  have e : (endFraming s).scan.framing = .hunting := rfl
  unfold startMark; split
  · assumption
  · unfold loseEnd; dsimp only; split
    · exact e
    · unfold rejectRecord
      rw [(raise_only ..).scan.resolve_left (by simp)]; exact e

/-- A second start mark changes nothing. -/
theorem startMark_startMark (s : State) : startMark (startMark s) = startMark s :=
  startMark_hunting (startMark_framing s)

/-- A taken request whose rule gives an answer at once. -/
theorem takeRequest_answer {h : ReqHeader} {act : State → State × Option Answer} {s u : State} {a : Answer}
    (t : takes h s) (e : act s = (u, some a)) : takeRequest h act s = answered h a s u := by
  unfold takeRequest; dsimp only
  rw [startMark_hunting t.2.1, if_neg t.1, if_pos t.2.2, e]
  rfl

/-- A taken request whose rule gives none. -/
theorem takeRequest_silent {h : ReqHeader} {act : State → State × Option Answer} {s u : State} (t : takes h s)
    (e : act s = (u, none)) : takeRequest h act s = u := by
  unfold takeRequest; dsimp only
  rw [startMark_hunting t.2.1, if_neg t.1, if_pos t.2.2, e]

/-- One value forms one element of an object whose elements are one value wide. -/
theorem writeCount_one {s : State} {o : Object} {i : Nat} {v : Word} (h : o.size i = 1) (b : i + 1 ≤ o.elements s) :
    writeCount s o i [v] = some 1 := by
  unfold writeCount; simp [Config.valuesMax, elementsFormed, h, b]

end Sys2Proof.Machine
end

