-- ==== Sys2Proof/Tests/Slice0.lean ====
section
/-! SUPPORT. Tests: ill-formed terms for each check of WellFormed, records byte by byte, the spec's worked values, one step
of each kind of command, and for every statement with premises a state that meets them. -/
namespace Sys2Proof.Tests
open Sys2Proof.Machine Sys2Proof.Safety

/- The tests are evaluated by the kernel one after another; elaborated at once, each would hold a thread waiting for it. -/
set_option Elab.async false

/-! ### Ill-formed terms -/

def hdr : ReqHeader := ⟨0, 7⟩

/-- An accepted FRAME is no rejected record; nor is a line without a record, nor a start mark alone. -/
theorem test_wf_rejectedRecord :
    (Instr.rejectedRecord (.start :: (encodeRecord (.frame 0 1)).map .byte ++ [.stop])).wf = false ∧
    (Instr.rejectedRecord [.byte 1, .stop]).wf = false ∧ (Instr.rejectedRecord [.start, .stop]).wf = false ∧
    (Instr.rejectedRecord [.start]).wf = false ∧ (Instr.rejectedRecord [.start, .byte 1, .stop]).wf = true := by
  decide +kernel

theorem test_wf_unknownRequest :
    (Instr.unknownRequest hdr 0x03 []).wf = false ∧ (Instr.unknownRequest hdr 0x20 (List.replicate 52 0)).wf = false ∧
    (Instr.unknownRequest hdr 0x0A []).wf = true ∧ (Instr.unknownRequest hdr 0x03 [0]).wf = true := by decide +kernel

theorem test_wf_writes :
    (Instr.write hdr 0x40 0 [0]).wf = false ∧ (Instr.write hdr 0x4E 0 [1]).wf = false ∧
    (Instr.write hdr 0x01 0 [0]).wf = false ∧ (Instr.write hdr 0x18 0 [0]).wf = false ∧
    (Instr.write hdr 0x04 0 (List.replicate 25 1)).wf = false ∧ (Instr.write hdr 0x04 0 [1]).wf = true ∧
    (Instr.writePulseMode hdr 0 (List.replicate 25 1)).wf = false ∧
    (Instr.writePulseRatio hdr 0 (List.replicate 25 1)).wf = false ∧
    (Instr.writeReverseLimit hdr 0 (List.replicate 25 1)).wf = false ∧
    (Instr.writeAlertMask hdr 0 (List.replicate 25 1)).wf = false ∧
    (Instr.writeTable hdr 0x3F 0 [0]).wf = false ∧ (Instr.writeTable hdr 0x4F 0 [0]).wf = false ∧
    (Instr.writeTable hdr 0x40 0 (List.replicate 25 1)).wf = false ∧ (Instr.writeTable hdr 0x4E 0 [1]).wf = true := by
  decide +kernel

theorem test_wf_clears :
    (Instr.clearFlags hdr 0 (List.replicate 17 0)).wf = false ∧ (Instr.clearGradeCounters hdr 2 []).wf = false ∧
    (Instr.clearGradeCounters hdr 1 (List.replicate 17 0)).wf = false ∧ (Instr.clearRejectedCount hdr 1 []).wf = false ∧
    (Instr.clearRejectedCount hdr 2 (List.replicate 17 0)).wf = false ∧ (Instr.clearRejectedCount hdr 3 []).wf = true := by
  decide +kernel

theorem test_wf_badTargetAndAction :
    (Instr.modeRequestBadTarget hdr 1).wf = false ∧ (Instr.modeRequestBadTarget hdr 3).wf = false ∧
    (Instr.modeRequestBadTarget hdr 0).wf = true ∧ (Instr.modeRequestBadTarget hdr 4).wf = true ∧
    (Instr.testRequestBadAction hdr 1 0 0).wf = false ∧ (Instr.testRequestBadAction hdr 2 0 0).wf = false ∧
    (Instr.testRequestBadAction hdr 0 0 0).wf = true ∧ (Instr.testRequestBadAction hdr 3 0 0).wf = true := by
  decide +kernel

/-! ### Records byte by byte (chapter 12) -/

/-- The check over the characters 1 to 9, the published check value for the generator and start of R186. -/
theorem test_recordCheck : recordCheck [0x31, 0x32, 0x33, 0x34, 0x35, 0x36, 0x37, 0x38, 0x39] = 0x29B1 := by
  decide +kernel

theorem test_frame_bytes :
    (encodeRecord (.frame 1 0x1234)).take 4 = [0x01, 0x82, 0x12, 0x34] ∧
    parseRecord (encodeRecord (.frame 1 0x1234)) = some (.frame 1 0x1234) := by decide +kernel

theorem test_open_bytes :
    (encodeRecord (.openSheet 0 2 9 40)).take 4 = [0x02, 0x02, 0x29, 40] ∧
    parseRecord (encodeRecord (.openSheet 0 2 9 40)) = some (.openSheet 0 2 9 40) := by decide +kernel

theorem test_feature_bytes :
    (encodeRecord (.feature 0 15 31 0x0123 0x0FFF 7)).take 9 = [0x03, 0x07, 0xF0, 0x1F, 0x01, 0x23, 0x0F, 0xFF, 7] ∧
    parseRecord (encodeRecord (.feature 0 15 31 0x0123 0x0FFF 7)) = some (.feature 0 15 31 0x0123 0x0FFF 7) := by
  decide +kernel

theorem test_moist_bytes :
    (encodeRecord (.moist 1 5 11000 100)).take 7 = [0x04, 0x85, 0x50, 0x2A, 0xF8, 0x00, 0x64] ∧
    parseRecord (encodeRecord (.moist 1 5 11000 100)) = some (.moist 1 5 11000 100) := by decide +kernel

theorem test_close_bytes :
    (encodeRecord (.closeSheet 0 0 15 255)).take 4 = [0x05, 0x02, 0x0F, 0xFF] ∧
    parseRecord (encodeRecord (.closeSheet 0 0 15 255)) = some (.closeSheet 0 0 15 255) := by decide +kernel

/-- A Write of Scan Lag 900 to the group address. -/
theorem test_request_bytes :
    (encodeRecord (.request ⟨63, 41⟩ 0x02 (Request.write 0x05 0 [900]).fields)).take 10 =
      [0x0A, 0x08, 63, 41, 0x02, 0x05, 0, 0, 0x03, 0x84] ∧
    parseRecord (encodeRecord (.request ⟨63, 41⟩ 0x02 [0x05, 0, 0, 0x03, 0x84])) =
      some (.request ⟨63, 41⟩ 0x02 [0x05, 0, 0, 0x03, 0x84]) ∧
    parseRequest 0x02 [0x05, 0, 0, 0x03, 0x84] = some (.write 0x05 0 [900]) := by decide +kernel

theorem test_request_kinds :
    parseRequest 0x01 [0x44, 1, 0, 5, 3] = some (.read 0x44 1 5 3) ∧ parseRequest 0x03 [] = some .commit ∧
    parseRequest 0x04 [] = some .copy ∧ parseRequest 0x05 [2] = some (.mode 2) ∧
    parseRequest 0x06 [3, 0, 15] = some (.clear 3 [0, 15]) ∧
    parseRequest 0x07 [1, 1, 0xAB, 0xCD, 0xEF] = some (.test 1 1 0xABCDEF) ∧ parseRequest 0x08 [] = some .ident ∧
    parseRequest 0x09 [] = some .restart ∧ parseRequest 0x02 [5, 0, 0, 1] = none ∧ parseRequest 0x05 [] = none := by
  decide +kernel

/-- A damaged byte, a short record, a length that is not the kind's, and an unknown kind fail the integrity check (R4). -/
theorem test_integrity :
    parseRecord ((encodeRecord (.frame 0 1)).set 3 2) = none ∧ parseRecord ((encodeRecord (.frame 0 1)).take 5) = none ∧
    parseRecord (frameRecord 0x01 0 [0, 1, 2]) = none ∧ parseRecord (frameRecord 0x06 0 [0, 1]) = none ∧
    parseRecord [] = none := by decide +kernel

/-- The records of the Route Link (Table 12-8). -/
theorem test_route_bytes :
    (OutRecord.route 5 1 3 20000).payload = [5, 1, 3, 0, 0, 0x4E, 0x20] ∧
    (OutRecord.alert .diverted 24400).payload = [9, 0, 0, 0x5F, 0x50] ∧
    (OutRecord.reply 41 5 .badIndex []).payload = [41, 5, 5, 0] ∧
    (OutRecord.start ⟨.command, some 77, some .streaming, some 9, true⟩).payload = [3, 7, 77, 2, 9, 1] ∧
    (OutRecord.start ⟨.power, none, none, none, false⟩).payload = [1, 0, 0, 0, 0, 0] := by decide +kernel

/-! ### The spec's worked values -/

/-- The bank of Tables 5-4 and 5-5, lane 5, with thresholds 120, 160, 200, 240 and Wet Limit 150. -/
def moistBank : Bank :=
  { Bank.powerOn #v[2000, 6000, 10000, 14000, 18000, 22000, 26000, 30000]
      #v[lane5 [40, 60, 85, 110, 140, 175, 215, 260], lane5 [45, 68, 95, 122, 154, 190, 232, 280],
         lane5 [50, 75, 104, 134, 168, 206, 250, 300]] with
    thresholds := #v[120, 160, 200, 240], wetLimit := 150 }
where
  lane5 (vs : List Word) : Vector Word 128 :=
    vs.zipIdx.foldl (fun v x => v.setIfInBounds (40 + x.2) x.1) (Vector.replicate 128 0)

/-- The five samples of section 5.12. -/
theorem test_samples :
    moistBank.corrected 5 11000 100 = 91 ∧ moistBank.corrected 5 17000 130 = 135 ∧
    moistBank.corrected 5 20500 215 = 181 ∧ moistBank.corrected 5 64000 300 = 300 ∧
    moistBank.corrected 5 1500 180 = 45 := by decide +kernel

/-- Table 5-6. -/
theorem test_summary :
    [91, 135, 181, 300, 45].foldl (MoistureSummary.add · 150 ·) ⟨0, 0, none, 0⟩ = ⟨5, 752, some 300, 2⟩ ∧
    (MoistureSummary.mk 5 752 (some 300) 2).mean = some 150 ∧ (MoistureSummary.mk 0 0 none 0).mean = none := by
  decide +kernel

/-- A falling curve rounds down too. -/
theorem test_interpolate_falling : interpolate 100 90 1 4 = 97 ∧ interpolate 90 100 1 4 = 92 := by decide +kernel

/-- The indices of Table 4-3 and the bounds of R61. -/
theorem test_classIndex :
    classIndex 3 0 .edge = 25 ∧ classIndex 9 3 .edge = 79 ∧ classIndex 31 3 .edge = 255 ∧ classIndex 0 0 .core = 0 ∧
    featureArea 9 9 = 0 ∧ featureArea 10 10 = 1 ∧ featureArea 4095 4095 = 167690 := by decide +kernel

/-! ### Small states -/

/-- The state after a command. -/
def after (c : Instr) (s : State) : State :=
  match exec c s with
  | .next t => t
  | .fault _ | .refused _ => s

def inMode (m : Mode) : State :=
  { State.reset with agent := { State.reset.agent with mode := m }, position := ⟨2000, 0, 0⟩ }

def live : State := inMode .streaming
def draining : State := inMode .draining
def standby : State := inMode .standby

def withSheets (es : List Entry) (s : State) : State := s.setTracker { s.tracker with sheets := es }
def withBlind (b : BlindSpan) (s : State) : State := s.setTracker { s.tracker with blind := some b }
def withDue (k : WatchKind) (p : Position) (s : State) : State := s.setWatches (s.watches ++ [⟨k, p, false, true⟩])

/-- An OPEN entry on lanes 0 to 3, leading edge 1000, bound to Bank 0. -/
def openEntryOf (tag : Tag) : Entry := newEntry TableStore.powerOn tag 1000 0 3
/-- The same, CLOSED at 1500. -/
def closedEntryOf (tag : Tag) : Entry := { openEntryOf tag with state := .closed, trailing := some 1500 }
/-- The same, decided RULE 0 to gate 0. -/
def decidedEntryOf (tag : Tag) : Entry := { closedEntryOf tag with decision := some ⟨3, 1, none, 1, .rule 0⟩, holding := false }
/-- A full Sheet Queue on lanes 0 to 3. -/
def fullQueue : List Entry := (List.range 24).map fun n => closedEntryOf (BitVec.ofNat 8 n)
/-- A full Output Queue of ROUTE records. -/
def fullLink (s : State) : State := s.setLink ⟨List.replicate 32 (.route 200 0 0 0), none⟩
def span (n : Nat) (st : SealState) : BlindSpan := ⟨1000, none, n, 1000, st⟩

/-- Bank 0 with an Edge Zone Distance of 200 and every class fatal. -/
def edgeTables : TableStore :=
  { TableStore.powerOn with
    bank0 := { TableStore.powerOn.bank0 with edgeZone := 200, classTable := Vector.replicate 256 ⟨some 2, true⟩ } }

/-! ### One step of each kind of command -/

/-- Table 2-5: with DIVIDE 3 and residue 2, a forward pulse at debt 0 advances the belt and clears the residue. -/
theorem test_pulse_divide :
    let s := { live with position := ⟨500, 2, 0⟩, settings := { live.settings with pulseRatio := 3 } }
    (after (.forwardPulse true) s).position = ⟨501, 0, 0⟩ ∧ (after .reversePulse s).position = ⟨500, 2, 1⟩ ∧
    (after (.forwardPulse true) (after .reversePulse s)).position = ⟨500, 2, 0⟩ := by decide +kernel

/-- Table 2-6: MULTIPLY 4 advances by 4; the reverse pulse at debt 3 with Reverse Limit 3 is a reversal. -/
theorem test_pulse_multiply :
    let s := { live with
      position := ⟨1000, 0, 0⟩
      settings := { live.settings with pulseMode := .multiply, pulseRatio := 4, reverseLimit := 3 } }
    (after (.forwardPulse true) s).position = ⟨1004, 0, 0⟩ ∧
    (after .reversePulse { s with position := ⟨1008, 0, 3⟩ }).position = ⟨1008, 0, 0⟩ ∧
    flagSet (after .reversePulse { s with position := ⟨1008, 0, 3⟩ }) .beltReversed = true := by decide +kernel

/-- A position reached is taken within a whole advance: an undecided entry becomes LATE. -/
theorem test_advance_takes :
    let s := arm (Ctx.now live) (.decision 5) 2001 (withSheets [openEntryOf 5] live)
    (after (.forwardPulse true) s).tracker.sheets.map (fun e => e.decision.map (·.grade)) = [some 14] ∧
    ((after (.forwardPulse false) s).watches.map (·.due)) = [true] := by decide +kernel

/-- Table 1-11: the OPEN at 10120 with offset 40 has its leading edge at 9180; the FRAME expects its successor. -/
theorem test_open_and_frame :
    let s := { live with position := ⟨10120, 0, 0⟩, settings := { live.settings with scanLag := 900 } }
    (after (.openSheet 0 2 5 40) s).tracker.sheets.map (fun e => (e.leading, e.tag, e.state)) =
      [(9180, 0, SheetState.opened)] ∧
    (after (.frame 0 17) s).scan.expected = some 18 ∧ (after (.frame 0 65535) s).scan.expected = some 0 ∧
    (after (.openSheet 1 2 5 40) s).tracker.sheets = [] := by decide +kernel

/-- Table 4-4, F1: a feature near the leading edge is tallied as edge, in class 2. -/
theorem test_feature :
    let b := { Bank.powerOn defaultKnots defaultCurves with
      bandLimits := #v[20, 60, 150], edgeZone := 200
      classTable := (Vector.replicate 256 ⟨none, false⟩).set 27 ⟨some 2, false⟩ }
    let e := { newEntry TableStore.powerOn 4 20000 2 9 with bank := .bank0 }
    let s := withSheets [e] { live with
      position := ⟨20140, 0, 0⟩, settings := { live.settings with scanLag := 40 }
      tables := { live.tables with bank0 := b } }
    (after (.feature 0 5 3 30 25 0) s).tracker.sheets.map (fun e => (e.total, e.tally.get 2, e.held.length)) =
      [(1, ⟨1, 30, 7⟩, 0)] ∧
    (after (.feature 0 6 3 80 40 10) { s with position := ⟨20500, 0, 0⟩ }).tracker.sheets.map
      (fun e => (e.total, e.held.map (·.releasePos))) = [(0, [20650])] := by decide +kernel

/-- A CLOSE with another last lane decides the sheet SUSPECT; with its own it is evaluated (Table 3-5). -/
theorem test_close :
    let s := withSheets [openEntryOf 1] live
    (after (.closeSheet 0 0 2 0) s).tracker.sheets.map (fun e => (e.trailing, e.decision.map (·.grade))) =
      [(some 2000, some 13)] ∧
    (after (.closeSheet 0 0 3 0) s).tracker.sheets.map (fun e => (e.evalStatus, e.decision.isSome)) =
      [(EvalStatus.inEvaluation, false)] ∧
    flagSet (after (.closeSheet 0 7 8 0) s) .orphan = true := by decide +kernel

/-- Table 6-7: rule 1 fails on the area of class 2, and rule 4 is satisfied. -/
theorem test_rules :
    let e := { closedEntryOf 20 with
      first := 3, last := 9, trailing := some 2100
      tally := ((openEntryOf 20).tally.set 0 ⟨3, 25, 4⟩).set 2 ⟨1, 70, 21⟩ |>.set 7 ⟨1, 12, 1⟩ }
    let lim := fun (l : List ClassLimit) => l.zipIdx.foldl (fun v x => v.setIfInBounds x.2 x.1) Rule.powerOn.items
    let r0 := { Rule.powerOn with
      minLength := some 1000, minLanes := some 6, moistMax := some 100, policy := .refuse, itemCount := 2
      items := lim [⟨0, some 4, none, none⟩, ⟨2, none, some 80, none⟩] }
    let r1 := { Rule.powerOn with
      minLength := some 1000, wetMax := some 0, policy := .refuse, itemCount := 3
      items := lim [⟨0, some 4, none, none⟩, ⟨2, none, some 80, some 20⟩, ⟨7, none, none, none⟩] }
    let r2 := { Rule.powerOn with minLanes := some 8 }
    let r3 := { Rule.powerOn with policy := .refuse, itemCount := 2, items := lim [⟨0, none, none, none⟩, ⟨2, some 1, none, none⟩] }
    let r4 := { Rule.powerOn with itemCount := 1, items := lim [⟨2, some 1, none, none⟩] }
    let b := { Bank.powerOn defaultKnots defaultCurves with
      ruleCount := 5, rules := #v[r0, r1, r2, r3, r4, Rule.powerOn, Rule.powerOn, Rule.powerOn] }
    b.satisfiedRule e = some 4 ∧
    b.satisfiedRule { e with tally := e.tally.set 2 ⟨1, 70, 20⟩ } = some 1 := by decide +kernel

/-- R28, R132: the stale expiry a fire point arms is due in the same advance when the belt has reached it, also at the
counter and for a fire point armed at the belt; behind the counter, of a fire point armed behind the belt, it is not. -/
theorem test_late_fire :
    let s := withSheets [decidedEntryOf 6] { live with settings := { live.settings with staleDistance := 3 } }
    let stale := fun (late : Bool) (p : Position) =>
      (after (.firePoint 6) (s.setWatches [⟨.fire 6, p, late, true⟩])).watches.map fun w => (w.pos, w.due)
    stale false 1996 = [(1999, true)] ∧ stale false 1997 = [(2000, true)] ∧ stale false 1998 = [(2001, false)] ∧
    stale true 1996 = [(1999, false)] ∧ stale true 1997 = [(2000, true)] ∧ stale true 1998 = [(2001, false)] ∧
    ([1999, 2000, 2001].map fun p => (arm (Ctx.now s) (.fire 6) p s).watches.map (·.passed)) = [[true], [false], [false]] := by
  decide +kernel

/-- Table 8-3: at a stale expiry the ROUTE record leaves the queue and the entry is diverted. -/
theorem test_stale :
    let e := { decidedEntryOf 6 with route := .placed }
    let s := withDue (.stale 6) 24400 (withSheets [e] { live with link := ⟨[.route 6 1 3 1000, .route 5 1 3 1000], none⟩ })
    (after (.staleExpiry 6) s).tracker.sheets.map (fun e => (e.route, e.flags.diverted, e.window)) =
      [(RouteProgress.withdrawn, true, some WindowPhase.waiting)] ∧
    (after (.staleExpiry 6) s).link = ⟨[.route 5 1 3 1000], none⟩ := by decide +kernel

/-- The taking of a retirement, with its notice taken within it or not. -/
def retired (tag : Tag) (notice : Bool) (s : State) : State :=
  takeNamed (.retirement tag) (fun w s => retirementReached tag notice w (draw s)) s

/-- RETIREMENT is one of the two, as the free value says. -/
theorem test_retirement_command (tag : Tag) (s : State) :
    after (.retirement tag) s = retired tag (Config.freeNotice s.draws) s := by
  change takeNamed _ _ s = _
  unfold retired takeNamed; split
  · split <;> rfl
  · rfl

/-- Retirement counts the grade, reports the sheet and leaves no position of it. -/
theorem test_retirement :
    let s := withDue (.retirement 6) 2000 (withSheets [decidedEntryOf 6] draining)
    let t := retired 6 true s
    t.attention.grades.get 3 = 1 ∧ t.tracker.sheets = [] ∧ t.agent.mode = .standby ∧ t.link.queue.length = 1 := by
  decide +kernel

/-- R170: with the notice still to be taken, a flush finds nothing to drop and raises no DRAINED; a Mode request to
STREAMING returns there; and the notice taken first ends DRAINING. -/
theorem test_notice_orders :
    let s := withDue (.retirement 6) 2000 (withSheets [decidedEntryOf 6]
      { draining with settings := { draining.settings with reportEnable := false } })
    let t := retired 6 false s
    t.agent.mode = .draining ∧ t.tracker.sheets = [] ∧
    (after (.modeStandbyFlush hdr) t).agent.mode = .standby ∧
    flagSet (after (.modeStandbyFlush hdr) t) .drained = false ∧
    (after (.modeStandbyFlush hdr) t).link.queue.getLast? = some (.reply 7 0 .done [1, 0]) ∧
    (after (.modeStreaming hdr) t).agent.mode = .streaming ∧ flagSet (after (.modeStreaming hdr) t) .drained = false ∧
    (after .drainEndNotice t).agent.mode = .standby ∧ flagSet (after .drainEndNotice t) .drained = true := by
  decide +kernel

/-- R1: a record that comes whole while another is in progress rejects that one and is taken; in LOADING it is discarded. -/
theorem test_lost_end :
    let r : Framing := .receiving [1, 2]
    let s := { live with scan := { live.scan with framing := r } }
    let l := { State.reset with scan := { State.reset.scan with framing := r } }
    (after (.frame 0 17) s).scan.rejected = 1 ∧ flagSet (after (.frame 0 17) s) .scanFault = true ∧
    (after (.frame 0 17) s).scan.expected = some 18 ∧ (after (.frame 0 17) s).scan.framing = .hunting ∧
    (after (.ident hdr) s).scan.rejected = 1 ∧ (after (.ident hdr) s).link.queue.length = 1 ∧
    (after (.frame 0 17) live).scan.rejected = 0 ∧ (after (.frame 0 17) l).scan.rejected = 0 ∧
    (after (.rejectedRecord [.start, .start, .byte 1]) live).scan.rejected = 1 := by decide +kernel

/-- R122, R123: a Copy in flight is read from the STAGING bank as it stands, and completes with the banks equal. -/
theorem test_copy :
    let s := after (.copy hdr) { standby with tables := edgeTables }
    (after (.read hdr 0x42 1 0 1) s).tables.copyInFlight = true ∧ (after (.read hdr 0x42 1 0 1) s).draws = 1 ∧
    (after (.read hdr 0x42 1 0 1) s).tables.bank0.edgeZone = edgeTables.bank0.edgeZone ∧
    (after .copyCompletion (after (.read hdr 0x42 1 0 1) s)).tables.bank1.edgeZone = edgeTables.bank0.edgeZone := by
  decide +kernel

/-- Of each sheet: how many features are held, count of class 2 and total, grade, and trailing edge. -/
def look (s : State) : List (List Nat) :=
  s.tracker.sheets.map fun e =>
    [e.held.length, (e.tally.get 2).count, e.total, (e.decision.map (·.grade.val)).getD 99,
     (e.trailing.map (·.toNat)).getD 0]

/-- R42, R67, R73: the hold list is emptied as edge at the close; a fatal feature decides an unsuspected sheet FATAL and
a suspect one SUSPECT, and a trailing edge before the leading edge is put at it. -/
theorem test_close_empties :
    let e := { openEntryOf 1 with held := [⟨0, 0, 10, 10, 1500⟩, ⟨1, 1, 30, 20, 1600⟩] }
    let s := arm (Ctx.now live) (.release 1) 1600 (arm (Ctx.now live) (.release 1) 1500
      { withSheets [e] live with tables := edgeTables })
    look (after (.closeSheet 0 0 3 0) s) = [[0, 2, 2, 12, 2000]] ∧
    look (after (.closeSheet 0 0 2 0) s) = [[0, 2, 2, 13, 2000]] ∧
    look (after (.closeSheet 0 0 3 0) { s with position := ⟨900, 0, 0⟩ }) =
      [[0, 2, 2, 13, 1000]] ∧
    (after (.closeSheet 0 0 3 0) s).watches.map (·.kind) = [.silence, .retirement 1, .fire 1] := by decide +kernel

/-- Table 9-2: the first row of a stamp is asserted, and its dot end releases it. -/
theorem test_stamp :
    let rows : Vector NozzleSet 4 := #v[0xFF, 0xFF00, 0xFF0000, 0]
    let e := { decidedEntryOf 8 with decision := some ⟨1, 1, some rows, 3, .rule 1⟩ }
    let s := withDue (.stampStart 8) 33600 (withSheets [e]
      { live with settings := { live.settings with markerEnable := true }, position := ⟨33600, 0, 0⟩ })
    let t := after (.stampStart 8) s
    nozzleLines t = 0xFF ∧ t.watches.map (fun w => (w.kind, w.pos)) = [(.dotEnd, 33604)] ∧
    nozzleLines (after .dotEnd (withDue .dotEnd 33604 (t.setWatches []))) = 0 := by decide +kernel

/-- Requests: a setting written and read back, its range, its mode, and a station that is not the part's. -/
theorem test_write_read :
    (after (.write hdr 0x05 0 [900]) standby).settings.scanLag = 900 ∧
    (after (.write hdr 0x04 0 [17]) standby).settings.laneCount = 16 ∧
    (after (.write hdr 0x05 0 [900]) live).settings.scanLag = 0 ∧
    (after (.write ⟨1, 7⟩ 0x05 0 [900]) standby).settings.scanLag = 0 ∧
    answerRead 0x09 0 4 3 standby = .refuse .badIndex ∧ answerRead 0x09 0 0 6 standby = ⟨.done, [0, 0, 0, 0, 0, 0]⟩ ∧
    answerRead 0x44 0 0 8 standby = ⟨.done, [0, 0, 0x00FF, 0, 0, 0, 0, 0, 0, 0, 0, 0]⟩ := by decide +kernel

/-- Class limits of seven values each: the place of a value out of range is counted over the whole list (R116). -/
theorem test_writeTable_values :
    (writeRequest 0x45 0 [1, 1, 3, 0, 0, 0, 0, 12, 0, 0, 0, 0, 0, 0] standby).2 = some (.at .badValue 7) ∧
    (writeRequest 0x45 0 [1, 1, 3, 0, 0, 0, 0] standby).2 = some .done ∧
    (writeRequest 0x45 0 [1, 1, 3, 0, 0, 0] standby).2 = some (.refuse .badIndex) ∧
    (writeRequest 0x46 0 [6, 0] standby).2 = some (.at .badValue 0) ∧
    (writeRequest 0x4D 31 [0x0100, 0] standby).2 = some (.at .badValue 0) := by decide +kernel

/-- Table 7-4: gates not installed fail a Commit at item 32; a Commit with the queue empty changes the banks. -/
theorem test_commit :
    (commitRequest standby).2 = some (.at .tableInvalid 32) ∧
    (after (.commit hdr) { standby with settings := { standby.settings with gateDistance := Vector.replicate 6 4000 } }).tables.active = .bank1 ∧
    (after (.copy hdr) standby).tables.copyInFlight = true ∧
    (after .copyCompletion (after (.copy hdr) standby)).tables.copyInFlight = false := by decide +kernel

/-- Table 11-6: a Restart with an unfit preset. -/
theorem test_restart_and_loading :
    let s := { live with settings := { live.settings with alertMask := 0x8200 }, tracker := ⟨fullQueue.take 9, 9, none⟩ }
    let o := { OptionBlock.default with knots := #v[0, 8192, 16384, 16383, 32768, 40960, 49152, 57344] }
    let t := after (.restart ⟨0, 77⟩) s
    let u := after (.loadingEnd (some o) ⟨false, false, false, true⟩) t
    t.attention.startup = ⟨.command, some 77, some .streaming, some 9, false⟩ ∧ t.attention.flags = 0 ∧
    t.agent.mode = .loading ∧ u.agent.mode = .standby ∧ flagSet u .optionFault = true ∧ u.scan.deckValue = 1 ∧
    u.link.queue = [.start ⟨.command, some 77, some .streaming, some 9, true⟩, .alert .optionFault 0] := by decide +kernel

/-! ### States that meet the premises of the statements -/

/-- StepRunsTheFrontCommand, EveryCommandCompletes and the frames: a command that is well-formed and has an outcome. -/
theorem test_premises_steps :
    State.reset.pending = [] ∧ (Instr.forwardPulse true).wf = true ∧
    (∃ t, exec (.forwardPulse true) live = .next t) ∧ (∃ t, step live = .next t) := by
  exact ⟨rfl, rfl, ⟨_, rfl⟩, ⟨_, rfl⟩⟩

/-- BeltChangesOnlyByAdvance: a Restart that is taken, and LOADING. -/
theorem test_premises_belt : takes hdr live ∧ State.reset.agent.mode = .loading := by unfold takes; decide +kernel

/-- SheetsAndSpanChangeOnlyAsStated: the link at rest, with READY high and with records waiting while READY is low. -/
theorem test_premises_rest :
    linkAtRest { live with pins := ⟨false, false, true, false⟩ } ∧ linkAtRest (fullLink live) := by
  unfold linkAtRest; decide +kernel

/-- The invariants hold of a full queue, of an open sheet with its hold, of a full link, and, in the next theorem, of a Pulse Ratio at its bounds. -/
theorem test_premises_invariants :
    queueKept (withSheets fullQueue live) ∧ outputKept (fullLink live) ∧ loadingAtRest State.reset ∧
    debtKept { live with position := ⟨0, 0, 256⟩ } ∧
    testKept { standby with agent := { standby.agent with lineTest := some ⟨true, 1⟩ } } := by
  unfold queueKept tagsDistinct tagsOf outputKept loadingAtRest debtKept testKept; decide +kernel

theorem test_premises_conditioner :
    conditionerKept { live with settings := { live.settings with pulseMode := .multiply, pulseRatio := 128 } } ∧
    conditionerKept { live with settings := { live.settings with pulseRatio := 4096 }, position := ⟨0, 4095, 0⟩ } :=
  ⟨(by decide +kernel : (0 = 0 ∧ 2 ≤ (128 : Word).toNat ∧ (128 : Word).toNat ≤ 128)),
   (by decide +kernel : (4095 < (4096 : Word).toNat ∧ (4096 : Word).toNat ≤ 4096))⟩

theorem test_premises_tracking :
    trackingKept { withSheets [closedEntryOf 5] live with evaluator := ⟨[5], some ⟨5, .bank0⟩⟩ } := by
  refine ⟨by decide +kernel, ?_, ?_, by decide +kernel, by decide +kernel⟩
  · intro f h; cases h; decide +kernel
  · intro p h; cases h

theorem test_premises_holds :
    holdsKept { withSheets [openEntryOf 5] live with tables := { live.tables with holders0 := 1 } } := by
  unfold holdsKept tagsDistinct tagsOf; decide +kernel

/-- RecordsReadBack at the longest lists. -/
theorem test_premises_records :
    (ScanRecord.request hdr 0x0A (List.replicate 51 0)).fits = true ∧
    (Request.write 0x40 0 (List.replicate 24 0)).fits = true ∧ (Request.clear 0 (List.replicate 16 0)).fits = true := by
  decide +kernel

/-- RecordsAreDiscardedOrIgnored: LOADING, the other deck, STANDBY, and another station. -/
theorem test_premises_discarded :
    (traffic State.reset (.frame 0 1)).isSome = true ∧ (header (.ident hdr)).isSome = true ∧
    traffic live (.frame 1 1) = some (1, true) ∧ live.scan.deckValue = 0 ∧
    traffic standby (.openSheet 0 0 15 0) = some (0, true) ∧
    header (.ident ⟨62, 0⟩) = some ⟨62, 0⟩ ∧ live.agent.station = 0 := by decide +kernel

/-- RejectionCounts: a failing line and a lane above the limit, with the counter at 65534 and at 65535; a record in
progress is `test_lost_end`. -/
theorem test_premises_rejection :
    (Instr.rejectedRecord [.start, .byte 1, .stop]).wf = true ∧ live.scan.framing = .hunting ∧
    traffic { live with settings := { live.settings with laneCount := 4 } } (.openSheet 0 0 4 0) = some (0, false) ∧
    (after (.rejectedRecord [.start, .byte 1, .stop]) { live with scan := { live.scan with rejected := 65534 } }).scan.rejected =
      65535 ∧
    (after (.rejectedRecord [.start, .byte 1, .stop]) { live with scan := { live.scan with rejected := 65535 } }).scan.rejected =
      65535 := by decide +kernel

/-- AcceptedTrafficIsStamped, for each kind, at the bounds of the field check. -/
theorem test_premises_stamped :
    receives live ∧ receives draining ∧ traffic live (.frame 0 0) = some (0, true) ∧
    traffic live (.openSheet 0 15 15 0) = some (0, true) ∧ traffic live (.closeSheet 0 0 0 0) = some (0, true) ∧
    traffic live (.feature 0 15 0 1 4095 0) = some (0, true) ∧ traffic live (.moist 0 0 0 500) = some (0, true) := by
  unfold receives tracks; decide +kernel

/-- FrameNumbering: no number expected, the same one, and another one with an OPEN sheet in the queue. -/
theorem test_premises_frame :
    receives live ∧ tagsDistinct (withSheets [openEntryOf 1, closedEntryOf 2] live) ∧ linkAtRest live ∧
    live.scan.expected = none ∧ ({ live with scan := { live.scan with expected := some 7 } } : State).scan.expected = some 7 := by
  unfold receives tracks tagsDistinct tagsOf linkAtRest; decide +kernel

/-- OpenBecomesAnEntry with 23 sheets in the queue and a commit pending. -/
theorem test_premises_open :
    let s := { withSheets (fullQueue.take 23) live with tables := { live.tables with commitPending := true } }
    s.agent.mode = .streaming ∧ s.scan.framing = .hunting ∧ spanOk s 4 15 = true ∧ linkAtRest s ∧
    s.tracker.sheets.length < Config.sheetQueueMax ∧ s.tables.commitPending = true ∧
    ∀ e ∈ s.tracker.sheets, e.isOpen = true → e.sharesLane 4 15 = false := by unfold linkAtRest; decide +kernel

/-- OpenClosesConflicts: a span that touches the OPEN sheet in one lane; DRAINING, and STREAMING with room and with a full
queue; with a commit pending and without; and each state of the span. -/
theorem test_premises_conflict :
    let s := withSheets [openEntryOf 1] draining
    let f := withSheets (openEntryOf 100 :: fullQueue.take 23) live
    (receives s ∧ spanOk s 3 5 = true ∧ tagsDistinct s ∧ s.agent.mode = .draining ∧
      ∃ e ∈ s.tracker.sheets, e.isOpen = true ∧ e.sharesLane 3 5 = true) ∧
    (receives f ∧ spanOk f 3 5 = true ∧ tagsDistinct f ∧ Config.sheetQueueMax ≤ f.tracker.sheets.length ∧
      ∃ e ∈ f.tracker.sheets, e.isOpen = true ∧ e.sharesLane 3 5 = true) ∧
    (withSheets [openEntryOf 1] live).tracker.sheets.length < Config.sheetQueueMax ∧
    (withBlind (span 255 .sealed) s).tracker.blind = some (span 255 .sealed) ∧ s.tracker.blind = none := by
  unfold receives tracks tagsDistinct tagsOf; decide +kernel

/-- BlindOpenExtendsTheSpan: DRAINING, a full queue, and each state of the span. -/
theorem test_premises_blindOpen :
    let s := withSheets fullQueue live
    spanOk s 0 3 = true ∧ linkAtRest s ∧ s.scan.framing = .hunting ∧ s.agent.mode = .streaming ∧ Config.sheetQueueMax ≤ s.tracker.sheets.length ∧
    (∀ e ∈ s.tracker.sheets, e.isOpen = true → e.sharesLane 0 3 = false) ∧ draining.agent.mode = .draining ∧
    s.tracker.blind = none ∧ (withBlind (span 255 .unsealed) s).tracker.blind = some (span 255 .unsealed) ∧
    (withBlind (span 0 .sealed) s).tracker.blind = some (span 0 .sealed) := by unfold linkAtRest; decide +kernel

/-- UnattributedRecords, with and without blind sheets outstanding. -/
theorem test_premises_unattributed :
    let s := withSheets [openEntryOf 1] live
    receives s ∧ linkAtRest s ∧ attributedTo 4 s = none ∧ featureOk s 4 1 4095 = true ∧ moistOk s 4 500 = true ∧
    (∀ e ∈ s.tracker.sheets, e.isOpen = true → e.first ≠ 1) ∧ spanOk s 1 3 = true ∧ blindOutstanding s = false ∧
    blindOutstanding (withBlind (span 1 .unsealed) s) = true := by unfold receives tracks linkAtRest; decide +kernel

/-- FeatureIsTallied: at the edge by lane, at the edge zone's last position, and anywhere with a distance of 0; marked
fatal and not. -/
theorem test_premises_tallied :
    let s := withSheets [openEntryOf 1] live
    let f := { s with tables := edgeTables }
    receives s ∧ tagsDistinct s ∧ featureOk s 1 10 10 = true ∧ attributedTo 1 s = some (openEntryOf 1) ∧
    (s.tables.bank .bank0).edgeZone = 0 ∧ arrivesAtEdge (f.tables.bank .bank0) (openEntryOf 1) 3 5000 = true ∧
    arrivesAtEdge (f.tables.bank .bank0) (openEntryOf 1) 1 1199 = true ∧
    ((f.tables.bank .bank0).classOf 0 0 .edge).fatal = true ∧ ((s.tables.bank .bank0).classOf 0 0 .edge).fatal = false := by
  unfold receives tracks tagsDistinct tagsOf; decide +kernel

/-- FeatureIsHeld: on a list of 5 and of 6. -/
theorem test_premises_held :
    let h : HeldFeature := ⟨0, 0, 10, 10, 1500⟩
    let e := { openEntryOf 1 with held := List.replicate 6 h }
    let s := { withSheets [e] live with tables := edgeTables }
    receives s ∧ tagsDistinct s ∧ featureOk s 1 10 10 = true ∧ attributedTo 1 s = some e ∧
    arrivesAtEdge (s.tables.bank e.bank) e 1 (placed s s.position.belt 0) = false ∧
    arrivesAtEdge (s.tables.bank e.bank) e 1 1200 = false ∧
    (s.tables.bank e.bank).edgeZone ≠ 0 ∧ e.held.length = Config.edgeHoldMax ∧
    e.held = h :: List.replicate 5 h ∧ anyFatal (s.tables.bank .bank0) .core [h] = true ∧ e.decision = none ∧
    anyFatal (live.tables.bank .bank0) .core [h] = false ∧ releasesKept (openEntryOf 1) s ∧
    (e.held.drop 1).length < Config.edgeHoldMax := by
  unfold receives tracks tagsDistinct tagsOf releasesKept; decide +kernel

theorem test_premises_moist :
    let s := withSheets [openEntryOf 1] live
    receives s ∧ tagsDistinct s ∧ moistOk s 0 500 = true ∧ attributedTo 0 s = some (openEntryOf 1) := by
  unfold receives tracks tagsDistinct tagsOf; decide +kernel

/-- MeasuresOfSamplesAndFeatures: rising knots and limits, with a reading at each end and at a knot. -/
theorem test_premises_measures :
    (∀ i < 7, moistBank.knot i < moistBank.knot (i + 1)) ∧ moistBank.knot 0 = 2000 ∧ moistBank.knot 7 = 30000 ∧
    moistBank.curveValue 0 5 2000 = 40 ∧ moistBank.curveValue 0 5 30000 = 260 ∧ moistBank.curveValue 0 5 6000 = 60 ∧
    moistBank.curveValue 0 5 29999 = 259 ∧
    (moistBank.bandLimits.get 0).toNat < (moistBank.bandLimits.get 1).toNat ∧
    (moistBank.bandLimits.get 1).toNat < (moistBank.bandLimits.get 2).toNat ∧
    sizeBand moistBank.bandLimits 99 = 0 ∧ sizeBand moistBank.bandLimits 100 = 1 ∧
    sizeBand moistBank.bandLimits 600 = 3 ∧
    -- Table 5-3 at each of its bounds, with thresholds 120, 160, 200, 240 and curves 85, 95, 104 at the knot 10000
    [0, 120, 121, 140, 159, 160, 200, 201, 239, 240, 500].map (moistBank.corrected 5 10000) =
      [85, 85, 85, 90, 94, 95, 95, 95, 103, 104, 104] := by decide +kernel

/-- CloseEndsTheSheet: a trailing edge at the leading edge and before it, with the same last lane and another one, with
nothing held and a fatal feature held, undecided and decided FATAL. -/
theorem test_premises_close :
    let s := withSheets [openEntryOf 1] { live with position := ⟨1000, 0, 0⟩ }
    let e := openEntryOf 1
    receives s ∧ tagsDistinct s ∧ s.tracker.sheets.find? (fun x => x.isOpen && x.first = e.first) = some e ∧
    spanOk s e.first 3 = true ∧ spanOk s e.first 2 = true ∧
    before (placed s s.position.belt 0) e.leading = false ∧ before (placed s s.position.belt 1) e.leading = true ∧
    anyFatal (s.tables.bank .bank0) .edge e.held = false ∧ anyFatal edgeTables.bank0 .edge [⟨0, 0, 10, 10, 1500⟩] = true ∧
    e.evalStatus = .none ∧ e.tag ∉ s.evaluator.list ∧ e.last = 3 ∧ e.flags.suspect = false ∧ e.decision = none ∧
    ({ e with decision := some (edgeTables.bank0.decide .fatal) } : Entry).decision.isSome = true ∧ releasesKept e s ∧
    linkAtRest s ∧ s.evaluator.list = [] := by
  unfold receives tracks tagsDistinct tagsOf releasesKept linkAtRest; decide +kernel

/-- BlindCloseSealsAtZero: the last blind sheet, and one of two. -/
theorem test_premises_blindClose :
    let s := withBlind (span 1 .unsealed) draining
    receives s ∧ spanOk s 0 3 = true ∧ (∀ e ∈ s.tracker.sheets, e.isOpen = true → e.first ≠ 0) ∧
    s.tracker.blind = some (span 1 .unsealed) ∧ (span 1 .unsealed).outstanding = 1 ∧
    1 < (span 2 .unsealed).outstanding := by unfold receives tracks; decide +kernel

/-- AdvancesReachPositionsInOrder: MULTIPLY and DIVIDE at debt 0 with a position not due; a position that is not the next
one; and one armed by its own watcher behind the belt. -/
theorem test_premises_advance :
    let s := arm (Ctx.now live) (.decision 5) 2001 { live with
      settings := { live.settings with pulseMode := .multiply, pulseRatio := 4 } }
    s.agent.mode ≠ .loading ∧ s.position.debt = 0 ∧ s.settings.pulseMode = .multiply ∧
    (∀ w ∈ s.watches, w.due = false) ∧ live.settings.pulseMode = .divide ∧
    live.settings.pulseRatio.toNat ≤ live.position.residue + 1 ∧
    ((arm (Ctx.at .tracker 1999) (.decision 5) 2000 live).watches.map (·.due)) = [true] ∧
    ((arm (Ctx.now live) (.decision 5) 2000 live).watches.map (·.due)) = [false] ∧ position (.decisionPoint 5) = some (.decision 5) ∧
    nextDue s .tracker = none ∧ nextDue (withDue (.decision 5) 1999 (withDue (.retirement 5) 2000 s)) .tracker =
      some ⟨.decision 5, 1999, false, true⟩ := by decide +kernel

/-- The statements about a watched position: one that is due next, with what the statement asks of the state. -/
theorem test_premises_silence :
    let s := withDue .silence 2000 (withSheets [openEntryOf 1] { live with scan := { live.scan with silence := .armed } })
    tracks s ∧ tagsDistinct s ∧ comesDue s .silence ⟨.silence, 2000, false, true⟩ ∧ s.scan.silence = .armed := by
  unfold tracks tagsDistinct tagsOf comesDue; decide +kernel

theorem test_premises_overlength :
    let s := withDue (.overlength 1) 2000 (withSheets [openEntryOf 1] live)
    tagsDistinct s ∧ comesDue s (.overlength 1) ⟨.overlength 1, 2000, false, true⟩ ∧
    findEntry 1 s = some (openEntryOf 1) ∧ (openEntryOf 1).isOpen = true := by
  unfold tagsDistinct tagsOf comesDue; decide +kernel

theorem test_premises_decision :
    let s := withDue (.decision 1) 2000 (withSheets [closedEntryOf 1, decidedEntryOf 2] live)
    let s := withDue (.decision 2) 1999 s
    tagsDistinct s ∧ linkAtRest s ∧ comesDue s (.decision 2) ⟨.decision 2, 1999, false, true⟩ ∧
    (decidedEntryOf 2).decision.isSome = true ∧
    comesDue (dropWatch ⟨.decision 2, 1999, false, true⟩ s) (.decision 1) ⟨.decision 1, 2000, false, true⟩ ∧
    findEntry 1 s = some (closedEntryOf 1) ∧ (closedEntryOf 1).decision = none := by
  unfold tagsDistinct tagsOf linkAtRest comesDue; decide +kernel

theorem test_premises_retirement :
    let s := withDue (.retirement 1) 2000 (withSheets [decidedEntryOf 1] draining)
    tagsDistinct s ∧ comesDue s (.retirement 1) ⟨.retirement 1, 2000, false, true⟩ ∧
    findEntry 1 s = some (decidedEntryOf 1) ∧ (decidedEntryOf 1).isOpen = false ∧
    (decidedEntryOf 1).decision = some ⟨3, 1, none, 1, .rule 0⟩ ∧ s.settings.reportEnable = true ∧
    roomForOffered s = true ∧ s.tracker.blind = none ∧ tagsOf s = [1] := by
  unfold tagsDistinct tagsOf comesDue; decide +kernel

/-- RetirementReportsAndCounts, what the sheet has under way: a waiting ROUTE record, an evaluation with another sheet
listed behind it, a stamp, and a second sheet in the queue; each with what the statement says of it. -/
theorem test_premises_retirement_underway :
    let e := { decidedEntryOf 1 with route := .placed, evalStatus := .inEvaluation, holding := true }
    let s := withDue (.retirement 1) 2000 { withSheets [e, closedEntryOf 2] draining with
      link := ⟨[.route 1 1 3 1000, .route 2 1 3 1000], none⟩
      evaluator := ⟨[2], some ⟨1, .bank0⟩⟩
      marker := some ⟨1, #v[1, 2, 3, 4], 4, 1900, 0, true⟩ }
    let t := retired 1 true s
    (tagsDistinct s ∧ linkAtRest s ∧ comesDue s (.retirement 1) ⟨.retirement 1, 2000, false, true⟩ ∧
      findEntry 1 s = some e ∧ findEntry 2 s = some (closedEntryOf 2) ∧ tagsOf s ≠ [1]) ∧
    t.link.queue.map (OutRecord.isRouteOf 2) = [true, false] ∧ t.evaluator = ⟨[2], some ⟨2, .bank0⟩⟩ ∧ t.marker = none ∧
    flagSet t .diverted = true ∧ t.agent.mode = .draining := by
  unfold tagsDistinct tagsOf linkAtRest comesDue; decide +kernel

/-- A commit pending as the queue empties. -/
theorem test_premises_retirement_commit :
    let s := withDue (.retirement 1) 2000 { withSheets [decidedEntryOf 1] live with
      tables := { live.tables with commitPending := true } }
    tagsOf s = [1] ∧ s.tables.commitPending = true ∧ (retired 1 true s).tables.active = .bank1 ∧
    flagSet (retired 1 true s) .commitDone = true := by unfold tagsOf; decide +kernel

theorem test_premises_span :
    comesDue (withDue .forcedSeal 2000 (withBlind (span 1 .unsealed) live)) .forcedSeal ⟨.forcedSeal, 2000, false, true⟩ ∧
    comesDue (withDue .clearing 2000 (withBlind (span 0 .sealed) draining)) .clearing ⟨.clearing, 2000, false, true⟩ := by
  unfold comesDue; decide +kernel

theorem test_premises_release :
    let h : HeldFeature := ⟨0, 0, 10, 10, 2000⟩
    let e := { openEntryOf 1 with held := [h] }
    let s := withDue (.release 1) 2000 (withSheets [e] live)
    tagsDistinct s ∧ comesDue s (.release 1) ⟨.release 1, 2000, false, true⟩ ∧ findEntry 1 s = some e ∧
    takeHeld 2000 e.held = some (h, []) := by unfold tagsDistinct tagsOf comesDue; decide +kernel

/-- FirePointPlacesOrDiverts: 31 records, READY high and idle, and 32 records. -/
theorem test_premises_fire :
    let s := withDue (.fire 1) 2000 (withSheets [decidedEntryOf 1] live)
    linkAtRest s ∧ linkAtRest (fullLink s) ∧ linkAtRest { s with pins := ⟨false, false, true, false⟩ } ∧
    comesDue s (.fire 1) ⟨.fire 1, 2000, false, true⟩ ∧ findEntry 1 s = some (decidedEntryOf 1) ∧
    (decidedEntryOf 1).route = .pending ∧ (decidedEntryOf 1).flags.diverted = false ∧
    Config.outputQueueMax ≤ (fullLink s).link.queue.length ∧ s.link.sending = none := by
  unfold linkAtRest comesDue; decide +kernel

theorem test_premises_stale :
    let e := { decidedEntryOf 1 with route := .placed }
    let s := withDue (.stale 1) 2000 (withSheets [e] { live with link := ⟨[.route 1 1 3 1000], none⟩ })
    linkAtRest s ∧ comesDue s (.stale 1) ⟨.stale 1, 2000, false, true⟩ ∧ findEntry 1 s = some e ∧ e.route = .placed := by
  unfold linkAtRest comesDue; decide +kernel

theorem test_premises_divert :
    comesDue (withDue (.windowOpening 1) 2000 live) (.windowOpening 1) ⟨.windowOpening 1, 2000, false, true⟩ ∧
    comesDue (withDue (.windowClosing 1) 2000 live) (.windowClosing 1) ⟨.windowClosing 1, 2000, false, true⟩ ∧
    comesDue (withDue .intervalOpening 2000 (live.setInterval ⟨.waiting, 2000, none⟩)) .intervalOpening
      ⟨.intervalOpening, 2000, false, true⟩ ∧
    comesDue (withDue .intervalClosing 2000 live) .intervalClosing ⟨.intervalClosing, 2000, false, true⟩ ∧
    live.agent.lineTest = none := by unfold comesDue; decide +kernel

/-- SendingTakesTheHead: a ROUTE record at the head of the queue becomes the one in sending, its entry SENT, at a rise of
READY and at the completion of the record before it. -/
theorem test_sending_route :
    let s := withSheets [{ decidedEntryOf 1 with route := .placed }] { live with link := ⟨[.route 1 1 3 1000], none⟩ }
    let b := { s with link := ⟨s.link.queue, some (.alert .late 0)⟩ }
    (after .readyRise s).tracker.sheets.map (·.route) = [.sent] ∧ (after .readyRise b).link = b.link ∧
    (after (.sendingCompletion true) b).tracker.sheets.map (·.route) = [.sent] ∧
    (after (.sendingCompletion false) b).tracker.sheets.map (·.route) = [.placed] ∧
    (after (.sendingCompletion true) s).link = s.link := by decide +kernel

/-- SendingTakesTheHead: a ROUTE record at the head, and one in sending. -/
theorem test_premises_sending :
    ({ live with link := ⟨[.route 1 1 3 1000], none⟩ } : State).link = ⟨.route 1 1 3 1000 :: [], none⟩ ∧
    ({ live with link := ⟨[], some (.route 1 1 3 1000)⟩ } : State).link.sending = some (.route 1 1 3 1000) := by
  decide +kernel

/-- StampsArePrintedRowByRow: each of the four tests, a dot end before the last row and at it, and a row. -/
theorem test_premises_stamp :
    let rows : Vector NozzleSet 4 := #v[0xFF, 0xFF00, 0xFF0000, 0]
    let e := { decidedEntryOf 8 with decision := some ⟨1, 1, some rows, 3, .rule 1⟩ }
    let p : Stamp := ⟨8, rows, 3, 2000, 1, true⟩
    let s := withDue (.stampStart 8) 2000 (withSheets [e, decidedEntryOf 9]
      { live with settings := { live.settings with markerEnable := true } })
    linkAtRest s ∧ comesDue s (.stampStart 8) ⟨.stampStart 8, 2000, false, true⟩ ∧ findEntry 8 s = some e ∧
    s.marker = none ∧ (decidedEntryOf 9).decision = some ⟨3, 1, none, 1, .rule 0⟩ ∧
    comesDue (withDue .dotEnd 2004 { live with marker := some p }) .dotEnd ⟨.dotEnd, 2004, false, true⟩ ∧
    comesDue (withDue .row 2010 { live with marker := some p }) .row ⟨.row, 2010, false, true⟩ ∧
    p.row + 1 < p.rowCount ∧ ({ p with row := 2 } : Stamp).rowCount ≤ 2 + 1 := by
  unfold linkAtRest comesDue; decide +kernel

/-- PulsesRepayAndAdvance and ReversalMarksEverySheet: the debt at 0, below the limit and at it; the residue at both of
its clauses. -/
theorem test_premises_pulses :
    let s := { live with settings := { live.settings with pulseRatio := 3 } }
    s.agent.mode ≠ .loading ∧ s.position.debt < s.settings.reverseLimit.toNat ∧
    s.position.residue + 1 < s.settings.pulseRatio.toNat ∧
    ({ s with position := ⟨500, 2, 0⟩ } : State).position.residue + 1 = s.settings.pulseRatio.toNat ∧
    ({ s with position := ⟨500, 2, 256⟩ } : State).position.debt = s.settings.reverseLimit.toNat := by decide +kernel

/-- ReversalMarksEverySheet: an entry for each row of Table 3-4, and what becomes of it. -/
theorem test_premises_reversal :
    let listed := { closedEntryOf 2 with evalStatus := .listed, holding := true }
    let sent := { decidedEntryOf 4 with route := .sent }
    let s := { withSheets [openEntryOf 1, listed, decidedEntryOf 3, sent] live with
      position := ⟨2000, 0, 256⟩, evaluator := ⟨[2], none⟩ }
    let t := after .reversePulse s
    (s.agent.mode ≠ .loading ∧ s.position.debt = s.settings.reverseLimit.toNat ∧ tagsDistinct s ∧ linkAtRest s) ∧
    t.tracker.sheets.map (fun e => (e.flags.suspect, e.flags.reversed, e.decision.map (·.grade), e.holding)) =
      [(true, true, none, true), (true, true, some 13, false), (true, true, some 13, false),
       (true, true, some 3, false)] ∧
    t.evaluator.list = [] ∧ t.watches.map (·.kind) = [.fire 2, .fire 3] := by
  unfold tagsDistinct tagsOf linkAtRest; decide +kernel

/-- ReversalMarksEverySheet: an entry decided SUSPECT keeps its decision, although the bank now names another gate for
SUSPECT, and its fire point its position; one decided by a rule takes the bank's. -/
theorem test_premises_remarked :
    let again := { decidedEntryOf 5 with decision := some ⟨13, 2, none, 1, .suspect⟩ }
    let s := { withSheets [again, decidedEntryOf 3] live with
      position := ⟨2000, 0, 256⟩
      settings := { live.settings with gateDistance := #v[4000, 4500, 5000, 0, 0, 0] }
      watches := [⟨.fire 5, 1000 + 5000 - bu live.settings.routeLead, false, false⟩] }
    let t := after .reversePulse s
    (s.position.debt = s.settings.reverseLimit.toNat ∧ tagsDistinct s ∧ linkAtRest s ∧ again.route = .pending) ∧
    ((decisionBank s again).decide .suspect).gate = 0 ∧
    t.tracker.sheets.map (·.decision) = [again.decision, some ((decisionBank s again).decide .suspect)] ∧
    t.watches = s.watches ++ [⟨.fire 3, 1000 + 4000 - bu live.settings.routeLead, false, false⟩] := by
  unfold tagsDistinct tagsOf linkAtRest; decide +kernel

/-- EvaluationStartsAndCompletes: undecided, LATE and SUSPECT entries. -/
theorem test_premises_evaluation :
    let s := { withSheets [closedEntryOf 1] live with evaluator := ⟨[1], some ⟨1, .bank0⟩⟩ }
    let late := { closedEntryOf 1 with decision := some ⟨14, 0, none, 1, .late⟩ }
    tagsDistinct s ∧ linkAtRest s ∧ findEntry 1 s = some (closedEntryOf 1) ∧ (closedEntryOf 1).isOpen = false ∧
    (closedEntryOf 1).decision = none ∧ late.decision.isSome = true ∧
    (1 : Tag) ∉ ({ withSheets [late] live with evaluator := ⟨[], some ⟨1, .bank0⟩⟩ } : State).evaluator.list ∧
    ({ s with evaluator := ⟨[1], none⟩ } : State).evaluator = ⟨(closedEntryOf 1).tag :: [], none⟩ ∧
    (after .evaluationCompletion { withSheets [closedEntryOf 1, closedEntryOf 2] live with
      evaluator := ⟨[1, 2], some ⟨1, .bank0⟩⟩ }).evaluator = ⟨[2], some ⟨2, .bank0⟩⟩ := by
  unfold tagsDistinct tagsOf linkAtRest; decide +kernel

/-- InternalEventsOfBanksAndDraining. -/
theorem test_premises_internal :
    let r := { live with tables := { live.tables with otherState := .retiring } }
    r.tables.otherState = .retiring ∧ r.tables.holders r.tables.other = 0 ∧
    ({ live with tables := { live.tables with commitPending := true } } : State).tables.commitPending = true ∧
    live.tracker.sheets = [] ∧ draining.agent.mode = .draining ∧ draining.tracker.blind = none ∧
    (0 < ({ r.tables with holders1 := 1 } : TableStore).holders .bank1) ∧ r.tables.other = .bank1 ∧
    (withSheets [openEntryOf 1] live).tracker.sheets ≠ [] ∧
    (withBlind (span 1 .unsealed) draining).tracker.blind.isSome = true := by decide +kernel

/-- CommitIsCheckedThenPending, CopyStartsAndCompletes, TableWriteIsWhole: the store free, with a Copy in flight, and with
the other bank RETIRING; a check that fails and none that does; the queue empty and not. -/
theorem test_premises_tables :
    let ok := { live.settings with gateDistance := Vector.replicate 6 4000 }
    takes hdr live ∧ tableBusy live = none ∧ live.tables.copyInFlight = false ∧ live.tables.otherState = .staging ∧
    live.tables.commitPending = false ∧
    firstCommitFailure live.settings (live.tables.bank live.tables.other) = some 32 ∧
    firstCommitFailure ok (live.tables.bank live.tables.other) = none ∧
    (withSheets [openEntryOf 1] live).tracker.sheets ≠ [] ∧
    tableBusy { live with tables := { live.tables with copyInFlight := true } } = some (.refuse .copyBusy) ∧
    tableBusy { live with tables := { live.tables with otherState := .retiring } } = some (.refuse .bankBusy) ∧
    roomForOffered live = true ∧ takes hdr { live with tables := { live.tables with copyInFlight := true } } := by
  unfold takes; decide +kernel

/-- TableWriteIsWhole: two class limits of seven values, whole and one value short; all in range; and a first value out of
range behind a whole element. -/
theorem test_premises_tableWrite :
    let o := TableObject.classLimits
    let good : List Word := [1, 1, 255, 0, 9, 0, 0, 11, 0, 0, 1, 4095, 1, 65535]
    let bad : List Word := [1, 1, 255, 0, 9, 0, 0, 11, 0, 0, 1, 4096, 2, 65535]
    let sz := (Object.table o).size
    objectOf 0x45 = some (.table o) ∧ 94 + 2 ≤ (Object.table o).elements live ∧ valuesOf sz 2 94 = good.length ∧
    (∀ n < 4, valuesOf sz n 94 ≠ (good.take 13).length) ∧
    (∀ k < 2, ∀ j < sz (94 + k), valueFits o (94 + k) (elementValues o 94 k good) j = true) ∧
    valueFits o 95 (elementValues o 94 1 bad) 4 = false ∧
    (∀ k < 2, ∀ j < sz (94 + k), k < 1 ∨ (k = 1 ∧ j < 4) → valueFits o (94 + k) (elementValues o 94 k bad) j = true) ∧
    (writeRequest 0x45 94 bad standby).2 = some (.at .badValue 11) ∧
    (writeRequest 0x45 94 good standby).2 = some .done ∧
    o.read ((writeRequest 0x45 94 good standby).1.tables.bank1) 94 = [1, 1, 255, 0, 0, 0, 0] ∧
    asRead o 94 (elementValues o 94 0 good) = [1, 1, 255, 0, 0, 0, 0] := by decide +kernel

/-- TableWriteIsWhole: an object of one element takes a new value, and has no other element for the value to stand in. -/
theorem test_tableWrite_oneElement :
    let bank := (writeRequest 0x42 0 [200] standby).1.tables.bank1
    (Object.table .edgeZone).elements standby = 1 ∧ TableObject.edgeZone.read standby.tables.bank1 0 = [0] ∧
    TableObject.edgeZone.read bank 0 = [200] ∧ TableObject.wetLimit.read bank 0 = [999] := by decide +kernel

/-- ChecksAreTheRelations: the settings of section 3.13 with tables that name gate 0 meet every relation. -/
theorem test_premises_checks :
    firstConfigFailure { standby with settings := { standby.settings with
      scanLag := 900, decisionDistance := 2700, gateDistance := #v[4000, 4500, 0, 0, 0, 0]
      divertDistance := 4700, retireDistance := 5000 } } = none ∧ firstConfigFailure standby = some 1 ∧
    firstConfigFailure { standby with settings := { standby.settings with
      scanLag := 900, decisionDistance := 2700, gateDistance := #v[4000, 4500, 0, 0, 0, 0]
      divertDistance := 4600, retireDistance := 4599 } } = some 4 := by
  decide +kernel

/-- ChecksAreTheRelations: the rule of the highest number in use names a gate not installed, behind tables that hold. -/
theorem test_premises_items :
    let st := { standby.settings with gateDistance := #v[4000, 0, 0, 0, 0, 0] }
    let b := standby.tables.bank0
    firstCommitFailure st b = none ∧
    firstCommitFailure st { b with ruleCount := 8, rules := b.rules.set 7 { Rule.powerOn with gate := 1 } } = some 23 ∧
    firstCommitFailure st { b with ruleCount := 7, rules := b.rules.set 7 { Rule.powerOn with gate := 1 } } = none ∧
    firstCommitFailure st { b with outcomes := b.outcomes.set 3 ⟨1, none⟩ } = some 35 := by decide +kernel

/-- RequestsThatOnlyAnswer, SettingWrites, AlertMaskGovernsAlert, ModeRequestsMoveTheMode, ClearIsWhole,
LineTestDrivesTheOutputs: a request to the station and to the group address, in each mode. -/
theorem test_premises_requests :
    takes hdr standby ∧ takes ⟨63, 0⟩ standby ∧ takes hdr live ∧ takes hdr draining ∧
    (Instr.unknownRequest hdr 0x0A []).wf = true ∧ (Instr.modeRequestBadTarget hdr 4).wf = true ∧
    (Instr.testRequestBadAction hdr 3 0 0).wf = true ∧ standby.agent.mode = .standby ∧ live.agent.mode ≠ .standby ∧
    objectOf 0x3F = none ∧ objectOf 0x4E = some (.table .rowCount) ∧ objectOf 0x20 = some (.status .mode) ∧
    objectOf 0x04 = some (.standby .laneCount) ∧
    (0x04, SettingS.laneCount, 1, 16) ∈ plainSettings ∧ (0x10, SettingS.retireDistance, 0, 65535) ∈ plainSettings ∧
    ([0, 16] : List Byte).findIdx? (fun x => 15 < x.toNat) = some 1 ∧ (∀ x ∈ ([0, 15] : List Byte), x.toNat ≤ 15) ∧
    roomForOffered standby = true ∧ requestAnswered ⟨63, 0⟩ standby = false := by
  unfold takes; decide +kernel

/-- The Mode clauses: STANDBY with the checks passed is `test_premises_checks`; here DRAINING and an empty queue. -/
theorem test_premises_flush :
    takes hdr live ∧ tracks live ∧ tracks draining ∧ linkAtRest live ∧ live.tracker.sheets = [] ∧ live.tracker.blind = none ∧
    (withBlind (span 1 .unsealed) live).tracker.blind.isSome = true := by unfold takes tracks linkAtRest; decide +kernel

/-- FlushDropsEverything: the REPLY of a flush that drops two sheets. -/
theorem test_flush_reply :
    (after (.modeStandbyFlush hdr) (withSheets [openEntryOf 1, closedEntryOf 2] live)).link.queue =
      [.reply 7 0 .done [1, 2]] := by decide +kernel

/-- RaisingAndOffering: a flag set and clear, masked and not; 31 records, and 24 that are not ROUTE records. -/
theorem test_premises_offering :
    flagSet live .late = false ∧ flagSet (setFlag .late live) .late = true ∧ maskSet live .late = false ∧
    maskSet { live with settings := { live.settings with alertMask := 0xFFFF } } .late = true ∧
    nonRouteCount (List.replicate 23 (.alert .late 0)) < 24 ∧ 24 ≤ nonRouteCount (List.replicate 24 (.alert .late 0)) ∧
    32 ≤ (fullLink live).link.queue.length := by decide +kernel

/-- WarmResetKeepsAndClears, PowerOnSetsDefaults, LoadingEndsInStandby. -/
theorem test_premises_resets :
    live.agent.mode ≠ .loading ∧ takes hdr live ∧ State.reset.agent.mode = .loading ∧ State.reset.link = ⟨[], none⟩ ∧
    State.reset.attention.startup.cause = .power ∧ (after .pinReset live).attention.startup.cause = .pin ∧
    (after .pinReset (after .pinReset live)).attention.startup = ⟨.pin, none, some .loading, some 0, false⟩ := by
  unfold takes; decide +kernel

/-- LoadingEndsInStandby: a faulted Option Block with the mask bit of OPTION_FAULT set, at a warm reset, and with it clear
(R178). -/
theorem test_loading_alert :
    let s := after .pinReset { live with settings := { live.settings with alertMask := 0x8000 } }
    let o := { s.optionBlock with checkAgrees := false }
    (after (.loadingEnd (some o) s.pins) s).link =
      ⟨[.start ⟨.pin, none, some .streaming, some 0, true⟩, .alert .optionFault 0], none⟩ ∧
    (after (.loadingEnd none s.pins) s).link = ⟨[.start ⟨.pin, none, some .streaming, some 0, false⟩], none⟩ := by
  decide +kernel

end Sys2Proof.Tests
end

section
/-! The rows of records and requests in one form each: every traffic row is `takeTraffic` of its own act, every request
row is `takeRequest` of the request it spells. -/
namespace Sys2Proof.Machine
open Sys2Proof.Safety

/-- What a traffic record does once it is stamped (R13, R37, R39, R80, R40). -/
def trafficAct : Instr → Position → State → State
  | .frame _ n => fun _ => numberFrame n
  | .openSheet _ f l o => takeOpen f l o
  | .feature _ lane k a w o => takeFeature lane k a w o
  | .moist _ lane r t => fun _ => takeMoist lane r t
  | .closeSheet _ f l o => takeClose f l o
  | _ => fun _ s => s

/-- The request that a request row spells (log 1, log 22); none where its fields fit no kind. -/
def requestOf : Instr → Option Request
  | .unknownRequest _ k f => parseRequest k f
  | .read _ o sel i n => some (.read o sel i n)
  | .write _ o i vs | .writeTable _ o i vs => some (.write o i vs)
  | .writePulseMode _ i vs => some (.write 0x01 i vs)
  | .writePulseRatio _ i vs => some (.write 0x02 i vs)
  | .writeReverseLimit _ i vs => some (.write 0x03 i vs)
  | .writeAlertMask _ i vs => some (.write 0x18 i vs)
  | .commit _ => some .commit
  | .copy _ => some .copy
  | .modeStreaming _ => some (.mode 1)
  | .modeStandbyDrain _ => some (.mode 2)
  | .modeStandbyFlush _ => some (.mode 3)
  | .modeRequestBadTarget _ t => some (.mode t)
  | .clearFlags _ ch codes => some (.clear ch codes)
  | .clearGradeCounters _ ch codes => some (.clear (ch ||| 1) codes)
  | .clearRejectedCount _ ch codes => some (.clear (ch ||| 2) codes)
  | .testHold _ l n _ => some (.test 1 l n)
  | .testRelease _ l n _ => some (.test 2 l n)
  | .testRequestBadAction _ a l n => some (.test a l n)
  | .ident _ => some .ident
  | .restart _ => some .restart
  | _ => none

/-- The input levels a Test row samples: its own, or those that stand (log 10). -/
def levelsOf (stand : Pins) : Instr → Pins
  | .testHold _ _ _ p | .testRelease _ _ _ p => p
  | _ => stand

theorem exec_traffic {c : Instr} {s : State} {deck : BitVec 1} {ok : Bool} (h : traffic s c = some (deck, ok)) :
    exec c s = .next (takeTraffic deck ok (trafficAct c) s) := by
  cases c <;> cases h
  all_goals rfl

theorem exec_request {c : Instr} {h : ReqHeader} (k : header c = some h) (s : State) :
    exec c s = .next (takeRequest h (actOnRequest h (levelsOf s.pins c) (requestOf c)) s) := by
  cases c <;> cases k
  all_goals rfl

/-- A command has a meaning in every state. -/
theorem exec_total (c : Instr) (s : State) : ∃ t, exec c s = .next t := by
  cases c <;> exact ⟨_, rfl⟩

/-- The field checks look at the settings only (Table 1-9). -/
theorem traffic_congr {s t : State} (h : t.settings = s.settings) (c : Instr) : traffic t c = traffic s c := by
  cases c <;> simp only [traffic, spanOk, featureOk, moistOk, laneOk, h]

/-- A command that is neither a request nor a rejected record has no operand to misfit. -/
theorem wf_of_no_operand {c : Instr} (h : header c = none) (l : ∀ line, c ≠ .rejectedRecord line) : c.wf = true := by
  cases c <;> cases h
  case rejectedRecord line => exact absurd rfl (l line)
  all_goals rfl

/-- A part that a list of parts does not name, read off the list. -/
theorem Part.unnamed {p : Part} {W : List Part} (h : W.contains p = false) : p ∉ W := by simpa using h

theorem pending_not_mem_changes (c : Instr) : Part.pending ∉ changes c :=
  Part.unnamed (by cases c <;> rfl)

/-- No command touches the commands that wait, whether or not its operands fit its row (log 2, log 22). -/
theorem exec_pending {c : Instr} {s t : State} (h : exec c s = .next t) : t.pending = s.pending := by
  cases hh : header c with
  | some r =>
    rw [exec_request hh] at h
    cases h
    have k := takeRequest_only (W := anyParts) (h := r) (s := s)
      (fun u => actOnRequest_only r (levelsOf s.pins c) (requestOf c) u) rfl
    exact k.pending.resolve_left (by decide)
  | none =>
    by_cases hl : ∃ line, c = .rejectedRecord line
    · obtain ⟨line, rfl⟩ := hl
      cases h
      exact (takeLine_any line s).pending.resolve_left (by decide)
    · have wf := wf_of_no_operand hh fun line e => hl ⟨line, e⟩
      exact (exec_only wf h).pending.resolve_left (pending_not_mem_changes c)

/-- Settles O2: every command has a meaning, and none names the waiting commands among the parts it changes. -/
theorem everyCommandCompletes : Obligations.EveryCommandCompletes := by
  intro c s
  obtain ⟨t, h⟩ := exec_total c s
  exact ⟨t, h, exec_pending h⟩

end Sys2Proof.Machine
end

section
/-! The byte layouts of chapter 12 read what they write: the words of a record, its header and check, each kind's
payload, and the fields of each request. -/
namespace Sys2Proof.Machine
open Sys2Proof.Safety

/-! ### Words -/

@[simp] theorem wordBytes_length (w : Word) : (wordBytes w).length = 2 := rfl

@[simp] theorem bytesWord_wordBytes (w : Word) : bytesWord ((w >>> 8).setWidth 8) (w.setWidth 8) = w := by
  apply BitVec.eq_of_toNat_eq
  simp only [bytesWord, BitVec.toNat_append, BitVec.toNat_setWidth, BitVec.toNat_ushiftRight]
  rw [← Nat.shiftLeft_add_eq_or_of_lt (by omega)]
  simp only [Nat.shiftLeft_eq, Nat.shiftRight_eq_div_pow]
  omega

@[simp] theorem bytesNozzles_nozzleBytes (n : NozzleSet) :
    bytesNozzles ((n >>> 16).setWidth 8) ((n >>> 8).setWidth 8) (n.setWidth 8) = n := by
  apply BitVec.eq_of_toNat_eq
  simp only [bytesNozzles, BitVec.toNat_append, BitVec.toNat_setWidth, BitVec.toNat_ushiftRight]
  rw [← Nat.shiftLeft_add_eq_or_of_lt (by omega), ← Nat.shiftLeft_add_eq_or_of_lt (by omega)]
  simp only [Nat.shiftLeft_eq, Nat.shiftRight_eq_div_pow]
  omega

@[simp] theorem bytesWords_flatMap (vs : List Word) : bytesWords (vs.flatMap wordBytes) = some vs := by
  induction vs with
  | nil => rfl
  | cons v vs ih => simp [wordBytes, bytesWords, ih]

/-! ### Parts of a byte -/

@[simp] theorem high_append {n m : Nat} (a : BitVec n) (b : BitVec m) : ((a ++ b) >>> m).setWidth n = a := by
  ext i h
  simp only [BitVec.getElem_setWidth, BitVec.getLsbD_ushiftRight, BitVec.getLsbD_append]
  rw [if_neg (by omega), Nat.add_sub_cancel_left, BitVec.getLsbD_eq_getElem h]

@[simp] theorem low_append {n m : Nat} (a : BitVec n) (b : BitVec m) : (a ++ b).setWidth m = b := by
  ext i h
  simp only [BitVec.getElem_setWidth, BitVec.getLsbD_append]
  rw [if_pos h, BitVec.getLsbD_eq_getElem h]

/-- A field sent in a wider byte is the byte's low bits. -/
@[simp] theorem low_setWidth {n : Nat} (a : BitVec n) {m : Nat} (h : n ≤ m) : (a.setWidth m).setWidth n = a := by
  rw [BitVec.setWidth_setWidth_of_le _ h, BitVec.setWidth_eq]

/-- The two lanes of a lane byte (Table 12-3). -/
@[simp] theorem high_lanes (a b : Lane) : ((a ++ b : Byte) >>> 4).setWidth 4 = a := high_append a b
@[simp] theorem low_lanes (a b : Lane) : (a ++ b : Byte).setWidth 4 = b := low_append a b

/-! ### Header and check -/

/-- A record is read by its payload: its length and its check agree (R4, R186). -/
theorem parseRecord_frameRecord (kind : Byte) (deck : BitVec 1) (payload : List Byte) (h : payload.length < 128) :
    parseRecord (frameRecord kind deck payload) = parsePayload kind deck payload := by
  have n : ((deck ++ BitVec.ofNat 7 payload.length).setWidth 7).toNat = payload.length := by
    rw [low_append]; simp; omega
  have d : ((deck ++ BitVec.ofNat 7 payload.length) >>> 7).setWidth 1 = deck := high_append ..
  simp only [frameRecord, headerBytes, List.cons_append, List.nil_append, parseRecord, n, d, List.take_left,
    List.drop_left, List.length_append, wordBytes_length, and_self, if_true]

theorem payload_length (r : ScanRecord) (h : r.fits = true) : r.payload.length < 128 := by
  cases r with
  | request _ _ fields =>
    have : fields.length ≤ 51 := by simpa [ScanRecord.fits] using h
    simp only [ScanRecord.payload, List.length_append, List.length_cons, List.length_nil]; omega
  | _ => simp [ScanRecord.payload]

/-- Each kind's payload is read back (Tables 12-3 and 12-4). -/
theorem parsePayload_payload (r : ScanRecord) (h : r.fits = true) :
    parsePayload r.kindCode r.deckBit r.payload = some r := by
  cases r with
  | frame => simp [ScanRecord.payload, ScanRecord.kindCode, ScanRecord.deckBit, parsePayload, wordBytes]
  | openSheet => simp [ScanRecord.payload, ScanRecord.kindCode, ScanRecord.deckBit, parsePayload]
  | feature => simp [ScanRecord.payload, ScanRecord.kindCode, ScanRecord.deckBit, parsePayload, wordBytes]
  | moist => simp [ScanRecord.payload, ScanRecord.kindCode, ScanRecord.deckBit, parsePayload, wordBytes]
  | closeSheet => simp [ScanRecord.payload, ScanRecord.kindCode, ScanRecord.deckBit, parsePayload]
  | request _ _ fields =>
    have : fields.length ≤ 51 := by simpa [ScanRecord.fits] using h
    simp [ScanRecord.payload, ScanRecord.kindCode, parsePayload, this]

/-! ### The fields of a request, by its kind -/

theorem parseRequest_read (o sel i1 i0 n : Byte) :
    parseRequest 0x01 [o, sel, i1, i0, n] = some (.read o sel (bytesWord i1 i0) n) := rfl

theorem parseRequest_write (o i1 i0 : Byte) (rest : List Byte) {vs : List Word} (h : bytesWords rest = some vs)
    (n : vs.length ≤ Config.valuesMax) :
    parseRequest 0x02 (o :: i1 :: i0 :: rest) = some (.write o (bytesWord i1 i0) vs) := by
  have e : parseRequest 0x02 (o :: i1 :: i0 :: rest) = (match bytesWords rest with
    | some vs => if vs.length ≤ Config.valuesMax then some (.write o (bytesWord i1 i0) vs) else none
    | none => none) := rfl
  rw [e, h]
  exact if_pos n

theorem parseRequest_clear (ch : Byte) (codes : List Byte) (n : codes.length ≤ 16) :
    parseRequest 0x06 (ch :: codes) = some (.clear ch codes) := if_pos n

theorem parseRequest_test (a l n2 n1 n0 : Byte) :
    parseRequest 0x07 [a, l, n2, n1, n0] = some (.test a l (bytesNozzles n2 n1 n0)) := rfl

/-- The fields of each request kind are read back (Table 12-4). -/
theorem parseRequest_fields (r : Request) (h : r.fits = true) : parseRequest r.kindCode r.fields = some r := by
  cases r with
  | read o sel i n => exact (parseRequest_read ..).trans (by rw [bytesWord_wordBytes])
  | write o i vs =>
    have n : vs.length ≤ Config.valuesMax := by simpa [Request.fits] using h
    exact (parseRequest_write _ _ _ _ (bytesWords_flatMap vs) n).trans (by rw [bytesWord_wordBytes])
  | clear ch codes => exact parseRequest_clear ch codes (by simpa [Request.fits] using h)
  | test a l n => exact (parseRequest_test ..).trans (by rw [bytesNozzles_nozzleBytes])
  | _ => rfl

/-- Settles O14: the header and check of a record give its payload back, and each payload its record. -/
theorem recordsReadBack : Obligations.RecordsReadBack := by
  refine ⟨fun r h => ?_, parseRequest_fields⟩
  rw [encodeRecord, parseRecord_frameRecord _ _ _ (payload_length r h), parsePayload_payload r h]

end Sys2Proof.Machine
end

section
/-! The Scan Port: what a start mark, a rejection and a failing line come to, and the statements on records that are
discarded, ignored or rejected. -/
namespace Sys2Proof.Machine
open Sys2Proof.Safety

/-! ### Framing, start marks and rejection -/

theorem endFraming_hunting {s : State} (f : s.scan.framing = .hunting) : endFraming s = s := by
  unfold endFraming; rw [← f]; rfl

theorem setFraming_self (s : State) : setFraming s.scan.framing s = s := rfl

theorem loseEnd_loading {s : State} (m : s.agent.mode = .loading) : loseEnd s = endFraming s := if_pos m
theorem loseEnd_rejects {s : State} (m : s.agent.mode ≠ .loading) : loseEnd s = rejectRecord (endFraming s) := if_neg m

theorem startMark_receiving {s : State} (f : s.scan.framing ≠ .hunting) : startMark s = loseEnd s := by
  unfold startMark; split
  · next k => exact absurd k f
  · rfl

/-- In LOADING a start mark only ends the framing (R9). -/
theorem startMark_loading {s : State} (m : s.agent.mode = .loading) : startMark s = endFraming s := by
  by_cases f : s.scan.framing = .hunting
  · rw [startMark_hunting f, endFraming_hunting f]
  · rw [startMark_receiving f, loseEnd_loading m]

@[simp] theorem startMark_mode (s : State) : (startMark s).agent.mode = s.agent.mode :=
  (startMark_only s).mode.resolve_left (Part.unnamed rfl)
@[simp] theorem startMark_station (s : State) : (startMark s).agent.station = s.agent.station :=
  ((startMark_only s).options.resolve_left (Part.unnamed rfl)).1
@[simp] theorem startMark_settings (s : State) : (startMark s).settings = s.settings :=
  (startMark_only s).settings.resolve_left (Part.unnamed rfl)
@[simp] theorem startMark_pins (s : State) : (startMark s).pins = s.pins :=
  (startMark_only s).pins.resolve_left (Part.unnamed rfl)

/-- Of the Scan Port a rejection changes the counter only (R6). -/
@[simp] theorem rejectRecord_scan (s : State) :
    (rejectRecord s).scan = { s.scan with rejected := satInc 65535 s.scan.rejected } :=
  (raise_only ..).scan.resolve_left (Part.unnamed rfl)

/-- Of the Scan Port a lost end changes the framing and the counter only. -/
theorem loseEnd_scan (s : State) : ∃ n, (loseEnd s).scan = { s.scan with framing := .hunting, rejected := n } := by
  by_cases m : s.agent.mode = .loading
  · exact ⟨_, by rw [loseEnd_loading m]; rfl⟩
  · exact ⟨_, by rw [loseEnd_rejects m, rejectRecord_scan]; rfl⟩

/-- Of the Scan Port a start mark changes the framing and the counter only. -/
theorem startMark_scan (s : State) : ∃ n, (startMark s).scan = { s.scan with framing := .hunting, rejected := n } := by
  by_cases f : s.scan.framing = .hunting
  · exact ⟨s.scan.rejected, by rw [startMark_hunting f, ← f]⟩
  · rw [startMark_receiving f]; exact loseEnd_scan s

@[simp] theorem startMark_deckValue (s : State) : (startMark s).scan.deckValue = s.scan.deckValue := by
  obtain ⟨n, h⟩ := startMark_scan s
  rw [h]

/-- A raised flag is the one flag that a rejection sets (R6). -/
theorem raises_raise (c : Ctx) (f : Flag) (s : State) : raises [f] s (raise c f s) :=
  ⟨fun g h => by rw [List.mem_singleton.mp h]; exact flagSet_raise ..,
    fun g h o => flagSet_raise_other c f g s (by simpa using h) o⟩

theorem raises_rejectRecord (s : State) : raises [.scanFault] s (rejectRecord s) := raises_raise ..

/-- A state that has lost the end of a record, outside LOADING: it has been rejected and counted (R1, R6). -/
theorem loseEnd_counts {s : State} (m : s.agent.mode ≠ .loading) :
    (loseEnd s).scan.rejected = satInc 65535 s.scan.rejected ∧ raises [.scanFault] s (loseEnd s) := by
  rw [loseEnd_rejects m]
  exact ⟨by rw [rejectRecord_scan]; rfl, raises_rejectRecord (endFraming s)⟩

/-! ### A line that delivers one failing record -/

theorem judgeRecord_loading (bytes : List Byte) {s : State} (m : s.agent.mode = .loading) :
    judgeRecord bytes s = endFraming s := if_pos m

/-- A record that fails the integrity check is taken as one that lost its end is (R1, R6). -/
theorem judgeRecord_fails {bytes : List Byte} (h : parseRecord bytes = none) (s : State) :
    judgeRecord bytes s = loseEnd s := by
  unfold judgeRecord loseEnd; rw [h]

/-- A line from its second symbol on, with the bytes held so far. -/
theorem takeLine_after_start (bytes : List Byte) (lost : Bool)
    (fails : lost = true ∨ (bytes ≠ [] ∧ parseRecord bytes = none)) :
    ∀ (rest : List LineSymbol) (held : List Byte) (s : State), lineRecord.go held rest = some (bytes, lost) →
      takeLine rest (setFraming (.receiving held) s) = loseEnd s ∨
      takeLine rest (setFraming (.receiving held) s) = setFraming (.receiving []) (loseEnd s)
  | [], _, _, h => by simp [lineRecord.go] at h
  | [.stop], held, s, h => by
    obtain ⟨rfl, rfl⟩ : held = bytes ∧ false = lost := by simpa [lineRecord.go] using h
    obtain ⟨nonempty, none⟩ := fails.resolve_left (by simp)
    obtain ⟨b, held, rfl⟩ := List.exists_cons_of_ne_nil nonempty
    exact .inl (judgeRecord_fails none (setFraming (.receiving (b :: held)) s))
  | [.start], _, _, _ => .inr rfl
  | .byte b :: more, held, s, h =>
    takeLine_after_start bytes lost fails more (held ++ [b]) s (by simpa [lineRecord.go] using h)
  | .stop :: _ :: _, _, _, h => by simp [lineRecord.go] at h
  | .start :: _ :: _, _, _, h => by simp [lineRecord.go] at h

/-- A line that delivers one failing record: its start mark, the record taken as one that fails, and, where another
start mark ended it, the next record in progress (R1, R6). -/
theorem takeLine_fails {line : List LineSymbol} (h : lineFails line = true) (s : State) :
    takeLine line s = loseEnd (startMark s) ∨
    takeLine line s = setFraming (.receiving []) (loseEnd (startMark s)) := by
  match line with
  | [] | .byte _ :: _ | .stop :: _ => simp [lineFails, lineRecord] at h
  | .start :: rest =>
    simp only [lineFails, lineRecord] at h
    split at h
    · next bytes lost hg =>
      exact takeLine_after_start bytes lost (by simpa using h) rest [] (startMark s) hg
    · cases h

/-! ### Records taken -/

theorem takeTraffic_loading {deck : BitVec 1} {ok : Bool} {act : Position → State → State} {s : State}
    (m : s.agent.mode = .loading) : takeTraffic deck ok act s = startMark s := by
  unfold takeTraffic; simp only [startMark_mode, m]

theorem takeTraffic_otherDeck {deck : BitVec 1} {ok : Bool} {act : Position → State → State} {s : State}
    (d : deck ≠ s.scan.deckValue) : takeTraffic deck ok act s = startMark s := by
  unfold takeTraffic
  cases m : s.agent.mode <;> simp [m, d]

theorem takeTraffic_standby {deck : BitVec 1} {act : Position → State → State} {s : State}
    (m : s.agent.mode = .standby) : takeTraffic deck true act s = startMark s := by
  unfold takeTraffic; simp [m]

theorem takeTraffic_misfit {act : Position → State → State} {s : State} (m : s.agent.mode ≠ .loading) :
    takeTraffic s.scan.deckValue false act s = rejectRecord (startMark s) := by
  unfold takeTraffic
  cases k : s.agent.mode <;> simp_all

theorem takeTraffic_accepted {act : Position → State → State} {s : State} (h : receives s) :
    takeTraffic s.scan.deckValue true act s = act s.position.belt (armSilence s) := by
  obtain ⟨mode, hunting⟩ := h
  unfold takeTraffic
  rw [startMark_hunting hunting]
  rcases mode with m | m <;> simp [m]

theorem takeTraffic_startMark (deck : BitVec 1) (ok : Bool) (act : Position → State → State) (s : State) :
    takeTraffic deck ok act (startMark s) = takeTraffic deck ok act s := by
  unfold takeTraffic; rw [startMark_startMark]

theorem takeRequest_loading {h : ReqHeader} {act : State → State × Option Answer} {s : State}
    (m : s.agent.mode = .loading) : takeRequest h act s = startMark s := by
  unfold takeRequest; exact if_pos ((startMark_mode s).trans m)

theorem takeRequest_elsewhere {h : ReqHeader} {act : State → State × Option Answer} {s : State}
    (station : h.dest ≠ s.agent.station) (group : h.dest ≠ 63) : takeRequest h act s = startMark s := by
  have group : h.dest ≠ Config.groupAddress := group
  have untaken : requestTaken h (startMark s) = false := by simp [requestTaken, station, group]
  unfold takeRequest
  simp [untaken]

theorem takeRequest_startMark (h : ReqHeader) (act : State → State × Option Answer) (s : State) :
    takeRequest h act (startMark s) = takeRequest h act s := by
  unfold takeRequest; rw [startMark_startMark]

/-- A row of a whole record or request takes its start mark first (R1, log 3). -/
theorem exec_startMark {c : Instr} {s : State} (k : (traffic s c).isSome ∨ (header c).isSome) :
    exec c s = exec c (startMark s) := by
  rcases k with k | k
  · obtain ⟨⟨deck, ok⟩, h⟩ := Option.isSome_iff_exists.mp k
    rw [exec_traffic h, exec_traffic ((traffic_congr (startMark_settings s) c).trans h), takeTraffic_startMark]
  · obtain ⟨r, h⟩ := Option.isSome_iff_exists.mp k
    rw [exec_request h, exec_request h, takeRequest_startMark, startMark_pins]

/-! ### LOADING -/

/-- In LOADING a symbol of the line changes the framing at most (R9). -/
theorem lineSymbol_loading (x : LineSymbol) {s : State} (m : s.agent.mode = .loading) :
    ∃ f, lineSymbol x s = setFraming f s := by
  unfold lineSymbol; split
  · exact ⟨_, by rw [startMark_loading m]; rfl⟩
  · exact ⟨_, (setFraming_self s).symm⟩
  · exact ⟨_, rfl⟩
  · exact ⟨_, (setFraming_self s).symm⟩
  · exact ⟨_, rfl⟩
  · exact ⟨_, by rw [judgeRecord_loading _ m]; rfl⟩

theorem takeLine_loading : ∀ (line : List LineSymbol) (s : State), s.agent.mode = .loading →
    ∃ f, takeLine line s = setFraming f s
  | [], s, _ => ⟨_, (setFraming_self s).symm⟩
  | x :: line, s, m => by
    obtain ⟨f, first⟩ := lineSymbol_loading x m
    obtain ⟨g, rest⟩ := takeLine_loading line (setFraming f s) m
    exact ⟨g, (congrArg (takeLine line) first).trans rest⟩

/-- Settles O15: each stage that discards or ignores a record leaves what the start mark left. -/
theorem recordsAreDiscardedOrIgnored : Obligations.RecordsAreDiscardedOrIgnored := by
  refine ⟨fun c s m k => ?_, fun line s m => ?_, fun c s deck ok k _ => ⟨fun d => ?_, fun m a => ?_⟩,
    fun c s h k a b => ?_, fun s f => startMark_hunting f⟩
  · rw [← startMark_loading m]
    rcases k with k | k
    · obtain ⟨⟨deck, ok⟩, h⟩ := Option.isSome_iff_exists.mp k
      rw [exec_traffic h, takeTraffic_loading m]
    · obtain ⟨r, h⟩ := Option.isSome_iff_exists.mp k
      rw [exec_request h, takeRequest_loading m]
  · obtain ⟨f, h⟩ := takeLine_loading line s m
    exact ⟨f, congrArg Host.Outcome.next h⟩
  · rw [exec_traffic k, takeTraffic_otherDeck d]
  · subst a; rw [exec_traffic k, takeTraffic_standby m]
  · rw [exec_request k, takeRequest_elsewhere a b]

/-! ### Rejection -/

theorem satInc_eq (max n : Nat) : satInc max n = if n < max then n + 1 else n := rfl

/-- With the link at rest a rejection leaves every entry and every watched position. -/
theorem rejectRecord_rest {s : State} (h : linkAtRest s) :
    Only [.scan, .rejected, .link, .flags] s (rejectRecord s) := by
  refine Only.via (raise_rest ?_) rfl ?_
  · exact h
  · constructor <;> simp [holdingsOf]

theorem Only.tracker {W : List Part} {s t : State} (k : Only W s t) (entries : Part.entries ∉ W)
    (counter : Part.tagCounter ∉ W) (blind : Part.blind ∉ W) : t.tracker = s.tracker := by
  have a := k.entries.resolve_left entries
  have b := k.tagCounter.resolve_left counter
  have d := k.blind.resolve_left blind
  cases h : t.tracker; cases h' : s.tracker; simp_all

/-- What O16 says of a rejected record. -/
def rejectedAs (s t : State) : Prop :=
  t.scan.rejected = (if s.scan.rejected < 65535 then s.scan.rejected + 1 else s.scan.rejected) ∧
  raises [.scanFault] s t ∧
  t.scan.lastStamp = s.scan.lastStamp ∧ t.scan.expected = s.scan.expected ∧ t.scan.silence = s.scan.silence ∧
  (linkAtRest s → t.tracker = s.tracker ∧ t.watches = s.watches)

theorem rejectedAs_rejectRecord (s : State) : rejectedAs s (rejectRecord s) := by
  refine ⟨by rw [rejectRecord_scan, satInc_eq], raises_rejectRecord s, by rw [rejectRecord_scan],
    by rw [rejectRecord_scan], by rw [rejectRecord_scan], fun r => ?_⟩
  have k := rejectRecord_rest r
  exact ⟨k.tracker (Part.unnamed rfl) (Part.unnamed rfl) (Part.unnamed rfl),
    k.watches.resolve_left (Part.unnamed rfl)⟩

/-- The framing is no part of what is said of a rejection. -/
theorem rejectedAs_setFraming {s t : State} (f : Framing) (h : rejectedAs s t) : rejectedAs s (setFraming f t) := h

/-- A failing line, with no record in progress before it, is one rejected record. -/
theorem rejectedAs_line {line : List LineSymbol} {s : State} (m : s.agent.mode ≠ .loading)
    (f : s.scan.framing = .hunting) (h : lineFails line = true) : rejectedAs s (takeLine line s) := by
  have lost : rejectedAs s (loseEnd (startMark s)) := by
    rw [startMark_hunting f, loseEnd_rejects m, endFraming_hunting f]
    exact rejectedAs_rejectRecord s
  rcases takeLine_fails h s with e | e <;> rw [e]
  · exact lost
  · exact rejectedAs_setFraming _ lost

/-! ### The field checks (Table 1-9) -/

theorem spanOk_iff (s : State) (first last : Lane) : spanOk s first last = true ↔
    first.toNat < s.settings.laneCount.toNat ∧ last.toNat < s.settings.laneCount.toNat ∧ first.toNat ≤ last.toNat := by
  simp [spanOk, laneOk, BitVec.le_def, and_assoc]

theorem featureOk_iff (s : State) (lane : Lane) (along across : Word) : featureOk s lane along across = true ↔
    lane.toNat < s.settings.laneCount.toNat ∧
      1 ≤ along.toNat ∧ along.toNat ≤ 4095 ∧ 1 ≤ across.toNat ∧ across.toNat ≤ 4095 := by
  simp only [featureOk, laneOk, Bool.and_eq_true, decide_eq_true_eq, and_assoc]

theorem moistOk_iff (s : State) (lane : Lane) (temperature : Word) : moistOk s lane temperature = true ↔
    lane.toNat < s.settings.laneCount.toNat ∧ temperature.toNat ≤ 500 := by
  simp only [moistOk, laneOk, Bool.and_eq_true, decide_eq_true_eq]

/-- Settles O16: a failing line and a misfit record both come to `rejectRecord`, as does a lost end. -/
theorem rejectionCounts : Obligations.RejectionCounts := by
  refine ⟨fun c s m f k => ?_, fun s first last lane along across temperature =>
    ⟨spanOk_iff .., featureOk_iff .., moistOk_iff ..⟩, fun c s k => ⟨exec_startMark k, startMark_framing s,
    startMark_hunting, fun f m => ?_⟩⟩
  · rcases k with ⟨line, rfl, wf⟩ | k
    · exact ⟨takeLine line s, rfl, rejectedAs_line m f wf⟩
    · refine ⟨rejectRecord s, ?_, rejectedAs_rejectRecord s⟩
      rw [exec_traffic k, takeTraffic_misfit m, startMark_hunting f]
  · rw [startMark_receiving f]
    exact loseEnd_counts m

end Sys2Proof.Machine
end

section
/-! A Clear (R164): what it does to each flag and counter, and what the REPLY adds. -/
namespace Sys2Proof.Machine
open Sys2Proof.Safety

theorem flagSet_clearCodes (codes : List Byte) (f : Flag) (s : State) :
    flagSet (clearCodes codes s) f = (flagSet s f && !decide (BitVec.ofNat 8 f.code ∈ codes)) := by
  induction codes generalizing s with
  | nil => simp [clearCodes]
  | cons x codes ih =>
    have same : BitVec.ofNat 8 f.code = x ↔ f.code = x.toNat := by
      have := flag_lt f
      rw [← BitVec.toNat_inj, BitVec.toNat_ofNat, Nat.mod_eq_of_lt (by omega)]
    have step : clearCodes (x :: codes) s = clearCodes codes (clearFlagCode x.toNat s) := rfl
    rw [step, ih, flagSet_clearFlagCode]
    by_cases k : f.code = x.toNat <;> simp [same, k]

/-- A code above 15 refuses the whole Clear with its place (R164). -/
theorem clearRequest_refused {choices : Byte} {codes : List Byte} {i : Nat}
    (h : codes.findIdx? (fun x => 15 < x.toNat) = some i) (s : State) :
    clearRequest choices codes s = (s, some (.at .badValue i)) := by
  unfold clearRequest; rw [h]

/-- The state a Clear leaves when every code is a flag's (R164). -/
def cleared (choices : Byte) (codes : List Byte) (s : State) : State :=
  let s := clearCodes codes s
  let s := if choices.getLsbD 0 then s.setAttention { s.attention with grades := Vector.replicate 16 0 } else s
  if choices.getLsbD 1 then s.setScan { s.scan with rejected := 0 } else s

theorem clearRequest_done {codes : List Byte} (h : ∀ x ∈ codes, x.toNat ≤ 15) (choices : Byte) (s : State) :
    clearRequest choices codes s = (cleared choices codes s, some .done) := by
  have k : codes.findIdx? (fun x => 15 < x.toNat) = none := by simpa using h
  unfold clearRequest; rw [k]; rfl

theorem flagSet_cleared (choices : Byte) (codes : List Byte) (s : State) (f : Flag) :
    flagSet (cleared choices codes s) f = (flagSet s f && !decide (BitVec.ofNat 8 f.code ∈ codes)) := by
  rw [← flagSet_clearCodes]
  unfold cleared; dsimp only
  split <;> split <;> rfl

theorem cleared_grades (choices : Byte) (codes : List Byte) (s : State) : (cleared choices codes s).attention.grades =
    if choices.getLsbD 0 then Vector.replicate 16 0 else s.attention.grades := by
  have k := (clearCodes_only codes s).grades.resolve_left (Part.unnamed rfl)
  unfold cleared; dsimp only
  split <;> split <;> simp [k]

theorem cleared_rejected (choices : Byte) (codes : List Byte) (s : State) :
    (cleared choices codes s).scan.rejected = if choices.getLsbD 1 then 0 else s.scan.rejected := by
  have k := (clearCodes_only codes s).rejected.resolve_left (Part.unnamed rfl)
  unfold cleared; dsimp only
  split <;> split <;> simp [k]

theorem cleared_link (choices : Byte) (codes : List Byte) (s : State) : (cleared choices codes s).link = s.link := by
  have k := (clearCodes_only codes s).link.resolve_left (Part.unnamed rfl)
  unfold cleared; dsimp only
  split <;> split <;> simp [k]

/-! ### The REPLY -/

/-- A REPLY sets no flag but OUT_DROPPED, and not that one where none is sent or there is room (R133, R158). -/
theorem flagSet_answered {h : ReqHeader} {a : Answer} {s u : State} {f : Flag}
    (k : f ≠ .outDropped ∨ requestAnswered h s = false ∨ roomForOffered u = true) :
    flagSet (answered h a s u) f = flagSet u f := by
  unfold answered; split
  · next sent =>
    rcases k with k | k | k
    · exact (flagSet_offer _ _ f).resolve_right fun d => k d.1
    · rw [k] at sent; cases sent
    · unfold sendReply offer
      rw [if_pos k]; exact (place_only ..).flagSet (Part.unnamed rfl) f
  · rfl

/-- What a REPLY may change, besides what its request has done. -/
theorem answered_only (h : ReqHeader) (a : Answer) (s u : State) : Only raiseParts u (answered h a s u) := by
  unfold answered; split
  · exact offer_only ..
  · exact Only.refl ..

theorem answered_grades (h : ReqHeader) (a : Answer) (s u : State) :
    (answered h a s u).attention.grades = u.attention.grades :=
  (answered_only ..).grades.resolve_left (Part.unnamed rfl)

theorem answered_rejected (h : ReqHeader) (a : Answer) (s u : State) :
    (answered h a s u).scan.rejected = u.scan.rejected :=
  (answered_only ..).rejected.resolve_left (Part.unnamed rfl)

/-! ### The Clear rows -/

/-- Each Clear row is a Clear with some choice bits (log 22). -/
theorem exec_clear {c : Instr} {h : ReqHeader} {choices : Byte} {codes : List Byte}
    (k : c ∈ [Instr.clearFlags h choices codes, .clearGradeCounters h choices codes,
      .clearRejectedCount h choices codes]) :
    ∃ ch, ∀ s, exec c s = .next (takeRequest h (clearRequest ch codes) s) := by
  simp only [List.mem_cons, List.not_mem_nil, or_false] at k
  rcases k with rfl | rfl | rfl
  · exact ⟨choices, fun _ => rfl⟩
  · exact ⟨choices ||| 1, fun _ => rfl⟩
  · exact ⟨choices ||| 2, fun _ => rfl⟩

theorem takeRequest_clear {h : ReqHeader} {s : State} (t : takes h s) {codes : List Byte}
    (ok : ∀ x ∈ codes, x.toNat ≤ 15) (choices : Byte) :
    takeRequest h (clearRequest choices codes) s = answered h .done s (cleared choices codes s) :=
  takeRequest_answer t (clearRequest_done ok choices s)

/-- Settles O55: the codes are judged before any flag is cleared, and the REPLY adds OUT_DROPPED at most. -/
theorem clearIsWhole : Obligations.ClearIsWhole := by
  intro s h choices codes t
  refine ⟨fun c k => ?_, fun ok => ⟨?_, ?_, ?_⟩⟩
  · obtain ⟨ch, row⟩ := exec_clear k
    refine ⟨fun i bad => ?_, fun ok => ⟨_, row s, fun f free => ?_⟩⟩
    · rw [row, takeRequest_answer t (clearRequest_refused bad s)]
    · have room : roomForOffered (cleared ch codes s) = roomForOffered s := by
        unfold roomForOffered; rw [cleared_link]
      rw [takeRequest_clear t ok, flagSet_answered (by rw [room]; exact free), flagSet_cleared]
  · have row : exec (.clearGradeCounters h choices codes) s =
        .next (takeRequest h (clearRequest (choices ||| 1) codes) s) := rfl
    have chosen : (choices ||| 1).getLsbD 0 = true := by simp
    refine ⟨_, row, fun g => ?_⟩
    rw [takeRequest_clear t ok, answered_grades, cleared_grades, if_pos chosen]
    simp [Vector.get]
  · have row : exec (.clearRejectedCount h choices codes) s =
        .next (takeRequest h (clearRequest (choices ||| 2) codes) s) := rfl
    have chosen : (choices ||| 2).getLsbD 1 = true := by simp
    refine ⟨_, row, ?_⟩
    rw [takeRequest_clear t ok, answered_rejected, cleared_rejected, if_pos chosen]
  · have row : exec (.clearFlags h choices codes) s = .next (takeRequest h (clearRequest choices codes) s) := rfl
    refine ⟨_, row, ?_⟩
    rw [takeRequest_clear t ok, answered_grades, answered_rejected, cleared_grades, cleared_rejected]
    exact ⟨rfl, rfl⟩

end Sys2Proof.Machine
end

section
/-! What each command leaves of the Scan Port: the expected frame number, the deck value and the rejected-record
counter. `exec_only` tells the parts a command changes; here are the fields of the Scan Port, which is one part. -/
namespace Sys2Proof.Machine
open Sys2Proof.Safety

/-! ### Requests -/

/-- Only a Clear, a Mode request for STREAMING and a Restart touch the Scan Port by what they ask. -/
theorem actOnRequest_scan (r : ReqHeader) (p : Pins) (q : Option Request) (s : State) :
    (actOnRequest r p q s).1.scan = s.scan ∨ (∃ ch codes, q = some (.clear ch codes)) ∨
    (∃ t, q = some (.mode t) ∧ t.toNat = 1) ∨ q = some .restart := by
  match q with
  | none => exact .inl rfl
  | some (.read o sel i n) => exact .inl ((readRequest_only o sel i n s).scan.resolve_left (Part.unnamed rfl))
  | some (.write o i vs) =>
    have unnamed : Part.scan ∉ writeParts (objectOf o) := by
      rcases objectOf o with _ | ⟨_ | _ | _ | _⟩ <;> exact Part.unnamed rfl
    exact .inl ((writeRequest_only o i vs s).scan.resolve_left unnamed)
  | some .commit => exact .inl ((commitRequest_only s).scan.resolve_left (Part.unnamed rfl))
  | some .copy => exact .inl ((copyRequest_only r s).scan.resolve_left (Part.unnamed rfl))
  | some (.mode t) =>
    by_cases one : t.toNat = 1
    · exact .inr (.inr (.inl ⟨t, rfl, one⟩))
    · refine .inl ?_
      dsimp only [actOnRequest]; unfold modeRequest
      split
      · contradiction
      · exact (modeDrain_only s).scan.resolve_left (Part.unnamed rfl)
      · exact (modeFlush_only s).scan.resolve_left (Part.unnamed rfl)
      · rfl
  | some (.clear ch codes) => exact .inr (.inl ⟨ch, codes, rfl⟩)
  | some (.test a l n) => exact .inl ((testRequest_only a l n p s).scan.resolve_left (Part.unnamed rfl))
  | some .ident => exact .inl rfl
  | some .restart => exact .inr (.inr (.inr rfl))

/-- The REPLY leaves the Scan Port as the start mark or the request left it. -/
theorem takeRequest_scan (h : ReqHeader) (act : State → State × Option Answer) (s : State) :
    (takeRequest h act s).scan = (startMark s).scan ∨ (takeRequest h act s).scan = (act (startMark s)).1.scan := by
  unfold takeRequest; dsimp only
  split
  · exact .inl rfl
  · split
    · refine .inr ?_
      split
      · split
        · exact (offer_only ..).scan.resolve_left (Part.unnamed rfl)
        · rfl
      · rfl
    · exact .inl rfl

/-- What a Clear leaves of the Scan Port. -/
theorem clearRequest_scan (choices : Byte) (codes : List Byte) (s : State) :
    ∃ n, (clearRequest choices codes s).1.scan = { s.scan with rejected := n } := by
  unfold clearRequest; split
  · exact ⟨_, rfl⟩
  · have k := (clearCodes_only codes s).scan.resolve_left (Part.unnamed rfl)
    dsimp only
    split
    · exact ⟨0, by split <;> simp only [State.setScan_scan, State.setAttention_scan, k]⟩
    · exact ⟨s.scan.rejected, by split <;> simp only [State.setAttention_scan, k]⟩

theorem modeRequest_streaming {t : Byte} (one : t.toNat = 1) : modeRequest t = modeStreaming := by
  obtain rfl : t = 1 := BitVec.eq_of_toNat_eq one
  rfl

theorem modeStreaming_deckValue (s : State) : (modeStreaming s).1.scan.deckValue = s.scan.deckValue := by
  unfold modeStreaming; split
  · split <;> rfl
  all_goals rfl

/-- No request changes the deck value (R5). -/
theorem actOnRequest_deckValue (r : ReqHeader) (p : Pins) (q : Option Request) (s : State) :
    (actOnRequest r p q s).1.scan.deckValue = s.scan.deckValue := by
  rcases actOnRequest_scan r p q s with k | ⟨ch, codes, rfl⟩ | ⟨t, rfl, one⟩ | rfl
  · rw [k]
  · obtain ⟨n, k⟩ := clearRequest_scan ch codes s
    dsimp only [actOnRequest]; rw [k]
  · dsimp only [actOnRequest]; rw [modeRequest_streaming one, modeStreaming_deckValue]
  · rfl

/-- No request but a Mode request for STREAMING and a Restart changes the expected frame number (R13, R167). -/
theorem actOnRequest_expected {r : ReqHeader} {p : Pins} {q : Option Request} (s : State)
    (mode : ∀ t, q = some (.mode t) → t.toNat ≠ 1) (restart : q ≠ some .restart) :
    (actOnRequest r p q s).1.scan.expected = s.scan.expected := by
  rcases actOnRequest_scan r p q s with k | ⟨ch, codes, rfl⟩ | ⟨t, k, one⟩ | k
  · rw [k]
  · obtain ⟨n, k⟩ := clearRequest_scan ch codes s
    dsimp only [actOnRequest]; rw [k]
  · exact absurd one (mode t k)
  · exact absurd k restart

theorem modeStreaming_rejected (s : State) : (modeStreaming s).1.scan.rejected = s.scan.rejected :=
  (modeStreaming_only s).rejected.resolve_left (Part.unnamed rfl)

/-- No request but a Clear changes the rejected-record counter (R6). -/
theorem actOnRequest_rejected {r : ReqHeader} {p : Pins} {q : Option Request} (s : State)
    (clear : ∀ ch codes, q ≠ some (.clear ch codes)) :
    (actOnRequest r p q s).1.scan.rejected = s.scan.rejected := by
  rcases actOnRequest_scan r p q s with k | ⟨ch, codes, k⟩ | ⟨t, rfl, one⟩ | rfl
  · rw [k]
  · exact absurd k (clear ch codes)
  · dsimp only [actOnRequest]; rw [modeRequest_streaming one, modeStreaming_rejected]
  · rfl

/-! ### Traffic -/

/-- What a traffic record comes to: the start mark alone, a rejection by the field check, or its own act. -/
theorem takeTraffic_cases (deck : BitVec 1) (ok : Bool) (act : Position → State → State) (s : State) :
    takeTraffic deck ok act s = startMark s ∨
    (ok = false ∧ takeTraffic deck ok act s = rejectRecord (startMark s)) ∨
    (ok = true ∧ takeTraffic deck ok act s = act (startMark s).position.belt (armSilence (startMark s))) := by
  unfold takeTraffic; dsimp only
  cases (startMark s).agent.mode <;> dsimp only
  case loading => exact .inl rfl
  case standby =>
    split
    · exact .inl rfl
    · cases ok
      · exact .inr (.inl ⟨rfl, rfl⟩)
      · exact .inl rfl
  case streaming | draining =>
    split
    · exact .inl rfl
    · cases ok
      · exact .inr (.inl ⟨rfl, rfl⟩)
      · exact .inr (.inr ⟨rfl, rfl⟩)

@[simp] theorem armSilence_scan (s : State) :
    (armSilence s).scan = { s.scan with lastStamp := s.position.belt, silence := .armed } := rfl

@[simp] theorem numberFrame_scan (n : Word) (s : State) :
    (numberFrame n s).scan = { s.scan with expected := some (n + 1) } := by
  have gap : (frameGapNotice (Ctx.now s) (raise (Ctx.now s) .frameGap s)).scan = s.scan :=
    ((frameGapNotice_only ..).scan.resolve_left (Part.unnamed rfl)).trans
      ((raise_only ..).scan.resolve_left (Part.unnamed rfl))
  unfold numberFrame; dsimp only
  split
  · rfl
  · split
    · rfl
    · simp only [State.setScan_scan, gap]

/-- A sheet's record leaves the Scan Port to the Scan Port. -/
theorem trafficAct_scan {c : Instr} (h : ∀ d n, c ≠ .frame d n) (p : Position) (s : State) :
    (trafficAct c p s).scan = s.scan := by
  cases c
  case frame d n => exact absurd rfl (h d n)
  case openSheet => exact (takeOpen_only ..).scan.resolve_left (Part.unnamed rfl)
  case feature => exact (takeFeature_only ..).scan.resolve_left (Part.unnamed rfl)
  case moist => exact (takeMoist_only ..).scan.resolve_left (Part.unnamed rfl)
  case closeSheet => exact (takeClose_only ..).scan.resolve_left (Part.unnamed rfl)
  all_goals rfl

theorem trafficAct_deckValue (c : Instr) (p : Position) (s : State) :
    (trafficAct c p s).scan.deckValue = s.scan.deckValue := by
  by_cases h : ∃ d n, c = .frame d n
  · obtain ⟨d, n, rfl⟩ := h
    dsimp only [trafficAct]; rw [numberFrame_scan]
  · rw [trafficAct_scan fun d n e => h ⟨d, n, e⟩]

/-! ### The silence position and the pulses -/

/-- The expected frame number and the deck value are as they were. -/
def numbersKept (s t : State) : Prop :=
  t.scan.expected = s.scan.expected ∧ t.scan.deckValue = s.scan.deckValue

theorem numbersKept.trans {s t u : State} (h : numbersKept s t) (k : numbersKept t u) : numbersKept s u :=
  ⟨k.1.trans h.1, k.2.trans h.2⟩

theorem Only.numbers {W : List Part} {s t : State} (k : Only W s t) (n : Part.scan ∉ W) : numbersKept s t := by
  have e := k.scan.resolve_left n
  exact ⟨by rw [e], by rw [e]⟩

theorem silenceReached_numbers (w : Watch) (s : State) : numbersKept s (silenceReached w s) := by
  unfold silenceReached; dsimp only
  split
  · exact numbersKept.trans (t := s.setScan { s.scan with silence := .fired }) ⟨rfl, rfl⟩
      (((raise_only ..).numbers (Part.unnamed rfl)).trans ((silenceNotice_only ..).numbers (Part.unnamed rfl)))
  · exact ⟨rfl, rfl⟩

theorem takeNamed_numbers {kind : WatchKind} {act : Watch → State → State} (h : ∀ w s, numbersKept s (act w s))
    (s : State) : numbersKept s (takeNamed kind act s) := by
  unfold takeNamed; split
  · split
    · exact numbersKept.trans ⟨rfl, rfl⟩ (h _ (dropWatch _ s))
    · exact ⟨rfl, rfl⟩
  · exact ⟨rfl, rfl⟩

theorem actOn_numbers (w : Watch) (s : State) : numbersKept s (actOn w s) := by
  unfold actOn; split
  · exact silenceReached_numbers ..
  · exact (overlengthReached_only ..).numbers (Part.unnamed rfl)
  · exact (decisionReached_only ..).numbers (Part.unnamed rfl)
  · exact (retirementReached_only ..).numbers (Part.unnamed rfl)
  · exact (forcedSeal_only ..).numbers (Part.unnamed rfl)
  · exact (clearSpan_only ..).numbers (Part.unnamed rfl)
  · exact (releaseFeature_only ..).numbers (Part.unnamed rfl)
  · exact (firePoint_only ..).numbers (Part.unnamed rfl)
  · exact (staleExpiry_only ..).numbers (Part.unnamed rfl)
  · exact (windowOpening_only ..).numbers (Part.unnamed rfl)
  · exact (windowClosing_only ..).numbers (Part.unnamed rfl)
  · exact (intervalOpening_only ..).numbers (Part.unnamed rfl)
  · exact (intervalEnds_only _).numbers (Part.unnamed rfl)
  · exact (stampStart_only ..).numbers (Part.unnamed rfl)
  · exact (dotEnd_only ..).numbers (Part.unnamed rfl)
  · exact (nextRow_only ..).numbers (Part.unnamed rfl)

theorem takeNext_numbers (w : Watcher) (s : State) : numbersKept s (takeNext w s) := by
  unfold takeNext; split
  · exact numbersKept.trans ⟨rfl, rfl⟩ (actOn_numbers _ (dropWatch _ s))
  · exact ⟨rfl, rfl⟩

theorem takeAny_numbers {s t : State} (h : takeAny s = some t) : numbersKept s t := by
  unfold takeAny at h; split at h
  · cases h
  · cases h; exact takeNext_numbers ..
  · cases h; exact numbersKept.trans ⟨rfl, rfl⟩ (takeNext_numbers _ (draw s))

theorem settleFuel_numbers : ∀ (n : Nat) (s : State), numbersKept s (settleFuel n s)
  | 0, _ => ⟨rfl, rfl⟩
  | n + 1, s => by
    unfold settleFuel; split
    · exact ⟨rfl, rfl⟩
    · next h => exact (takeAny_numbers h).trans (settleFuel_numbers n _)

theorem settle_numbers (s : State) : numbersKept s (settle s) := settleFuel_numbers ..

theorem beltAdvance_numbers (whole : Bool) (n : Nat) (s : State) : numbersKept s (beltAdvance whole n s) := by
  have advanced : numbersKept s (advanceBelt n (settle s)) :=
    (settle_numbers s).trans ((advanceBelt_only ..).numbers (Part.unnamed rfl))
  unfold beltAdvance; dsimp only; split
  · exact advanced.trans (settle_numbers _)
  · exact advanced

theorem countPulse_numbers (whole : Bool) (s : State) : numbersKept s (countPulse whole s) := by
  unfold countPulse; split
  · split
    · exact numbersKept.trans ⟨rfl, rfl⟩ (beltAdvance_numbers whole 1 (s.setPosition { s.position with residue := 0 }))
    · exact ⟨rfl, rfl⟩
  · exact beltAdvance_numbers ..

theorem forwardPulse_numbers (whole : Bool) (s : State) : numbersKept s (forwardPulse whole s) := by
  unfold forwardPulse; dsimp only; split
  · exact ⟨rfl, rfl⟩
  · split
    · exact ⟨rfl, rfl⟩
    · exact numbersKept.trans ⟨rfl, rfl⟩ (countPulse_numbers whole (pulseLevels false s))

/-! ### The line, and the start and end of LOADING -/

theorem startMark_numbers (s : State) : numbersKept s (startMark s) := by
  obtain ⟨n, k⟩ := startMark_scan s
  exact ⟨by rw [k], by rw [k]⟩

theorem loseEnd_numbers (s : State) : numbersKept s (loseEnd s) := by
  obtain ⟨n, k⟩ := loseEnd_scan s
  exact ⟨by rw [k], by rw [k]⟩

theorem takeLine_numbers {line : List LineSymbol} (h : lineFails line = true) (s : State) :
    numbersKept s (takeLine line s) := by
  have lost := (startMark_numbers s).trans (loseEnd_numbers (startMark s))
  rcases takeLine_fails h s with k | k <;> rw [k]
  · exact lost
  · exact lost.trans ⟨rfl, rfl⟩

theorem endLoading_expected (o : Option OptionBlock) (p : Pins) (s : State) :
    (endLoading o p s).scan.expected = s.scan.expected := by
  have options : ∀ x, (takeOptionBlock x p s).scan.expected = s.scan.expected := fun x => by
    unfold takeOptionBlock; dsimp only; split <;> rfl
  unfold endLoading; split
  · exact ((announce_only ..).numbers (Part.unnamed rfl)).1.trans (options _)
  · rfl

theorem pinReset_deckValue (s : State) : (pinReset s).scan.deckValue = s.scan.deckValue := by
  unfold pinReset; split <;> rfl

/-! ### Every command -/

/-- The commands after which another frame number may be expected (R13, R14). -/
def renumbers : Instr → Bool
  | .frame .. | .modeStreaming _ | .powerOn | .pinReset | .restart _ => true
  | _ => false

/-- A misfit request row spells no request (R159). -/
theorem requestOf_unknown {h : ReqHeader} {kind : Byte} {fields : List Byte}
    (wf : (Instr.unknownRequest h kind fields).wf = true) : requestOf (.unknownRequest h kind fields) = none :=
  Option.isNone_iff_eq_none.mp (Bool.and_eq_true_iff.mp wf).2

/-- A request row that does not renumber asks neither for STREAMING nor for a Restart. -/
theorem requestOf_of_not_renumbers {c : Instr} (wf : c.wf = true) (n : renumbers c = false) :
    (∀ t, requestOf c = some (.mode t) → t.toNat ≠ 1) ∧ requestOf c ≠ some .restart := by
  cases c
  case unknownRequest => simp [requestOf_unknown wf]
  case modeRequestBadTarget h target =>
    have bad : target.toNat = 0 ∨ 3 < target.toNat := by simpa [Instr.wf] using wf
    refine ⟨fun t k => ?_, by simp [requestOf]⟩
    obtain rfl : target = t := by simpa [requestOf] using k
    omega
  case modeStreaming | restart => cases n
  all_goals simp [requestOf]

theorem expected_of_request {c : Instr} {r : ReqHeader} {s t : State} (hh : header c = some r) (wf : c.wf = true)
    (n : renumbers c = false) (h : exec c s = .next t) : t.scan.expected = s.scan.expected := by
  obtain ⟨mode, restart⟩ := requestOf_of_not_renumbers wf n
  rw [exec_request hh] at h
  cases h
  rcases takeRequest_scan r (actOnRequest r (levelsOf s.pins c) (requestOf c)) s with k | k <;> rw [k]
  · exact (startMark_numbers s).1
  · exact (actOnRequest_expected _ mode restart).trans (startMark_numbers s).1

theorem expected_of_traffic {c : Instr} {deck : BitVec 1} {ok : Bool} {s t : State}
    (ht : traffic s c = some (deck, ok)) (n : renumbers c = false) (h : exec c s = .next t) :
    t.scan.expected = s.scan.expected := by
  have noFrame : ∀ d n, c ≠ .frame d n := by rintro d m rfl; cases n
  rw [exec_traffic ht] at h
  cases h
  rcases takeTraffic_cases deck ok (trafficAct c) s with k | ⟨_, k⟩ | ⟨_, k⟩ <;> rw [k]
  · exact (startMark_numbers s).1
  · rw [rejectRecord_scan]; exact (startMark_numbers s).1
  · rw [trafficAct_scan noFrame]; exact (startMark_numbers s).1

theorem expected_of_event {c : Instr} {s t : State} (hh : header c = none) (ht : traffic s c = none)
    (wf : c.wf = true) (n : renumbers c = false) (h : exec c s = .next t) : t.scan.expected = s.scan.expected := by
  cases c <;> cases hh <;> cases ht <;> cases n
  case rejectedRecord => cases h; exact (takeLine_numbers wf s).1
  case forwardPulse => cases h; exact (forwardPulse_numbers ..).1
  case silencePosition => cases h; exact (takeNamed_numbers silenceReached_numbers s).1
  case loadingEnd => cases h; exact endLoading_expected ..
  all_goals exact ((exec_only wf h).numbers (Part.unnamed rfl)).1

/-- Only a FRAME, a Mode request for STREAMING and a reset change the expected frame number (R13, R14). -/
theorem exec_expected {c : Instr} {s t : State} (wf : c.wf = true) (n : renumbers c = false) (h : exec c s = .next t) :
    t.scan.expected = s.scan.expected := by
  cases hh : header c with
  | some r => exact expected_of_request hh wf n h
  | none =>
    cases ht : traffic s c with
    | some x => exact expected_of_traffic (deck := x.1) (ok := x.2) ht n h
    | none => exact expected_of_event hh ht wf n h

/-- The commands that set the deck value (R5). -/
def samplesDeck : Instr → Bool
  | .powerOn | .loadingEnd .. => true
  | _ => false

theorem deckValue_of_request {c : Instr} {r : ReqHeader} {s t : State} (hh : header c = some r)
    (h : exec c s = .next t) : t.scan.deckValue = s.scan.deckValue := by
  rw [exec_request hh] at h
  cases h
  rcases takeRequest_scan r (actOnRequest r (levelsOf s.pins c) (requestOf c)) s with k | k <;> rw [k]
  · exact (startMark_numbers s).2
  · exact (actOnRequest_deckValue ..).trans (startMark_numbers s).2

theorem deckValue_of_traffic {c : Instr} {deck : BitVec 1} {ok : Bool} {s t : State}
    (ht : traffic s c = some (deck, ok)) (h : exec c s = .next t) : t.scan.deckValue = s.scan.deckValue := by
  rw [exec_traffic ht] at h
  cases h
  rcases takeTraffic_cases deck ok (trafficAct c) s with k | ⟨_, k⟩ | ⟨_, k⟩ <;> rw [k]
  · exact (startMark_numbers s).2
  · rw [rejectRecord_scan]; exact (startMark_numbers s).2
  · rw [trafficAct_deckValue]; exact (startMark_numbers s).2

theorem deckValue_of_event {c : Instr} {s t : State} (hh : header c = none) (ht : traffic s c = none)
    (wf : c.wf = true) (n : samplesDeck c = false) (h : exec c s = .next t) :
    t.scan.deckValue = s.scan.deckValue := by
  cases c <;> cases hh <;> cases ht <;> cases n
  case rejectedRecord => cases h; exact (takeLine_numbers wf s).2
  case forwardPulse => cases h; exact (forwardPulse_numbers ..).2
  case silencePosition => cases h; exact (takeNamed_numbers silenceReached_numbers s).2
  case pinReset => cases h; exact pinReset_deckValue s
  all_goals exact ((exec_only wf h).numbers (Part.unnamed rfl)).2

/-- Only power-on and the end of LOADING set the deck value (R5). -/
theorem exec_deckValue {c : Instr} {s t : State} (wf : c.wf = true) (n : samplesDeck c = false)
    (h : exec c s = .next t) : t.scan.deckValue = s.scan.deckValue := by
  cases hh : header c with
  | some r => exact deckValue_of_request hh h
  | none =>
    cases ht : traffic s c with
    | some x => exact deckValue_of_traffic (deck := x.1) (ok := x.2) ht h
    | none => exact deckValue_of_event hh ht wf n h

/-- The commands that may reject a record of their own, or clear the counter (R6). -/
def recounts : Instr → Bool
  | .openSheet .. | .feature .. | .moist .. | .closeSheet .. | .rejectedRecord _ | .clearFlags ..
  | .clearGradeCounters .. | .clearRejectedCount .. | .powerOn => true
  | _ => false

theorem requestOf_of_not_recounts {c : Instr} (wf : c.wf = true) (n : recounts c = false) (ch : Byte)
    (codes : List Byte) : requestOf c ≠ some (.clear ch codes) := by
  cases c
  case unknownRequest => simp [requestOf_unknown wf]
  case clearFlags | clearGradeCounters | clearRejectedCount => cases n
  all_goals simp [requestOf]

theorem frame_rejected (deck : BitVec 1) (n : Word) {s : State} (f : s.scan.framing = .hunting) :
    (takeTraffic deck true (fun _ => numberFrame n) s).scan.rejected = s.scan.rejected := by
  rcases takeTraffic_cases deck true (fun _ => numberFrame n) s with k | ⟨no, _⟩ | ⟨_, k⟩
  · rw [k, startMark_hunting f]
  · cases no
  · rw [k, startMark_hunting f, numberFrame_scan]; rfl

theorem rejected_of_request {c : Instr} {r : ReqHeader} {s t : State} (hh : header c = some r) (wf : c.wf = true)
    (n : recounts c = false) (f : s.scan.framing = .hunting) (h : exec c s = .next t) :
    t.scan.rejected = s.scan.rejected := by
  rw [exec_request hh] at h
  cases h
  rcases takeRequest_scan r (actOnRequest r (levelsOf s.pins c) (requestOf c)) s with k | k <;>
    rw [k, startMark_hunting f]
  exact actOnRequest_rejected s (requestOf_of_not_recounts wf n)

theorem rejected_of_event {c : Instr} {s t : State} (hh : header c = none) (ht : traffic s c = none)
    (wf : c.wf = true) (n : recounts c = false) (h : exec c s = .next t) : t.scan.rejected = s.scan.rejected := by
  cases c <;> cases hh <;> cases ht <;> cases n
  all_goals exact (exec_only wf h).rejected.resolve_left (Part.unnamed rfl)

/-- A command that rejects no record of its own and clears nothing counts a rejection only where it finds a record in
progress (R1, R6). -/
theorem exec_rejected {c : Instr} {s t : State} (wf : c.wf = true) (n : recounts c = false) (h : exec c s = .next t)
    (k : s.scan.framing = .hunting ∨ (traffic s c = none ∧ header c = none)) :
    t.scan.rejected = s.scan.rejected := by
  rcases k with f | ⟨ht, hh⟩
  · cases hh : header c with
    | some r => exact rejected_of_request hh wf n f h
    | none =>
      by_cases frame : ∃ d m, c = .frame d m
      · obtain ⟨d, m, rfl⟩ := frame
        cases h
        exact frame_rejected d m f
      · have ht : traffic s c = none := by
          cases c
          case frame d m => exact absurd ⟨d, m, rfl⟩ frame
          case openSheet | feature | moist | closeSheet => cases n
          all_goals rfl
        exact rejected_of_event hh ht wf n h
  · exact rejected_of_event hh ht wf n h

end Sys2Proof.Machine
end

section
/-! What a command leaves with the link at rest, and the two statements on what changes only as stated. -/
namespace Sys2Proof.Machine
open Sys2Proof.Safety

/-! ### With the link at rest a raised flag changes no sheet -/

/-- All parts but the sheets, the Blind Span, the positions and what they bring about. -/
abbrev quietParts : List Part :=
  [.scan, .rejected, .position, .settings, .banks, .copyInFlight, .active, .commitPending, .holds, .copyReply, .link,
   .flags, .grades, .draws]

theorem Only.quiet {s t : State} (k : Only quietParts s t) : t.tracker = s.tracker ∧ t.watches = s.watches :=
  ⟨k.tracker (Part.unnamed rfl) (Part.unnamed rfl) (Part.unnamed rfl), k.watches.resolve_left (Part.unnamed rfl)⟩

/-- The operation leaves sheets and positions, and the link at rest. -/
def keepsRest (s t : State) : Prop := Only quietParts s t ∧ linkAtRest t

theorem keepsRest.refl {s : State} (h : linkAtRest s) : keepsRest s s := ⟨Only.refl .., h⟩

theorem keepsRest.trans {s t u : State} (h : keepsRest s t) (k : keepsRest t u) : keepsRest s u :=
  ⟨h.1.trans k.1, k.2⟩

/-- An operation that does not reach the link. -/
theorem Only.keepsRest {W : List Part} {s t : State} (k : Only W s t) (h : linkAtRest s)
    (sub : (W.all fun p => quietParts.contains p) = true) (link : Part.link ∉ W) (pins : Part.pins ∉ W) :
    keepsRest s t :=
  ⟨k.mono sub, linkAtRest_only k link pins h⟩

theorem raise_keepsRest {c : Ctx} {f : Flag} {s : State} (h : linkAtRest s) : keepsRest s (raise c f s) :=
  ⟨(raise_rest h).mono rfl, linkAtRest_raise h⟩

theorem offer_keepsRest {r : OutRecord} {s : State} (h : linkAtRest s) (n : r.isRoute = false) :
    keepsRest s (offer r s) :=
  ⟨(offer_rest h n).mono rfl, linkAtRest_offer h⟩

theorem rejectRecord_keepsRest {s : State} (h : linkAtRest s) : keepsRest s (rejectRecord s) := by
  have counted : keepsRest s (s.setScan { s.scan with rejected := satInc 65535 s.scan.rejected }) :=
    ⟨by constructor <;> simp [holdingsOf], h⟩
  exact counted.trans (raise_keepsRest counted.2)

theorem loseEnd_keepsRest {s : State} (h : linkAtRest s) : keepsRest s (loseEnd s) := by
  have framed : keepsRest s (endFraming s) := ⟨(endFraming_only s).mono rfl, h⟩
  by_cases m : s.agent.mode = .loading
  · rw [loseEnd_loading m]; exact framed
  · rw [loseEnd_rejects m]; exact framed.trans (rejectRecord_keepsRest framed.2)

theorem startMark_keepsRest {s : State} (h : linkAtRest s) : keepsRest s (startMark s) := by
  by_cases f : s.scan.framing = .hunting
  · rw [startMark_hunting f]; exact .refl h
  · rw [startMark_receiving f]; exact loseEnd_keepsRest h

theorem takeLine_keepsRest {line : List LineSymbol} {s : State} (wf : lineFails line = true) (h : linkAtRest s) :
    keepsRest s (takeLine line s) := by
  have start := startMark_keepsRest h
  have lost := start.trans (loseEnd_keepsRest start.2)
  rcases takeLine_fails wf s with k | k <;> rw [k]
  · exact lost
  · exact lost.trans ⟨(setFraming_only ..).mono rfl, lost.2⟩

/-! ### Banks -/

theorem releaseBank_keepsRest (c : Ctx) {s : State} (h : linkAtRest s) : keepsRest s (releaseBank c s) := by
  unfold releaseBank; split
  · have staged : keepsRest s (s.setTables { s.tables with otherState := .staging }) :=
      ⟨by constructor <;> simp [holdingsOf], h⟩
    exact staged.trans (raise_keepsRest staged.2)
  · exact .refl h

theorem commitIfQueueEmpty_keepsRest (c : Ctx) {s : State} (h : linkAtRest s) :
    keepsRest s (commitIfQueueEmpty c s) := by
  unfold commitIfQueueEmpty commitIfPending; split
  · split
    · refine keepsRest.trans ?_ (raise_keepsRest ?_)
      · exact ⟨by constructor <;> simp [holdingsOf], h⟩
      · exact h
    · exact .refl h
  · exact .refl h

theorem commitRequest_keepsRest {s : State} (h : linkAtRest s) : keepsRest s (commitRequest s).1 := by
  unfold commitRequest; split
  · exact .refl h
  · split
    · exact .refl h
    · have pending : keepsRest s (s.setTables { s.tables with commitPending := true }) :=
        ⟨by constructor <;> simp [holdingsOf], h⟩
      exact pending.trans (commitIfQueueEmpty_keepsRest _ pending.2)

theorem completeCopy_keepsRest {s : State} (h : linkAtRest s) : keepsRest s (completeCopy s) := by
  unfold completeCopy; split
  · have ended : keepsRest s ((s.setTables { s.tables.setBank s.tables.other (s.tables.bank s.tables.active) with
        copyInFlight := false }).setAgent { s.agent with copyReply := none }) := by
      refine ⟨?_, h⟩
      cases s.tables.other <;> constructor <;> simp [holdingsOf, TableStore.setBank]
    dsimp only; split
    · split
      · exact ended.trans (offer_keepsRest ended.2 rfl)
      · exact ended
    · exact ended
  · exact .refl h

/-! ### Requests -/

/-- The requests that concern no sheet: all but a Mode request with a target, a Test with an action, and a Restart. -/
def concernsNoSheet (q : Option Request) : Prop :=
  (∀ t, q = some (.mode t) → t.toNat = 0 ∨ 3 < t.toNat) ∧
  (∀ a l n, q = some (.test a l n) → a.toNat = 0 ∨ 2 < a.toNat) ∧ q ≠ some .restart

theorem actOnRequest_keepsRest (r : ReqHeader) (p : Pins) {q : Option Request} {s : State} (h : linkAtRest s)
    (apart : concernsNoSheet q) : keepsRest s (actOnRequest r p q s).1 := by
  obtain ⟨mode, test, restart⟩ := apart
  match q with
  | none => exact .refl h
  | some (.read o sel i n) =>
    exact (readRequest_only o sel i n s).keepsRest h rfl (Part.unnamed rfl) (Part.unnamed rfl)
  | some (.write o i vs) =>
    have k := writeRequest_only o i vs s
    generalize objectOf o = x at k
    rcases x with _ | ⟨_ | _ | _ | _⟩ <;> exact k.keepsRest h rfl (Part.unnamed rfl) (Part.unnamed rfl)
  | some .commit => exact commitRequest_keepsRest h
  | some .copy => exact (copyRequest_only r s).keepsRest h rfl (Part.unnamed rfl) (Part.unnamed rfl)
  | some (.mode t) => dsimp only [actOnRequest]; rw [modeRequest_bad _ _ (mode t rfl)]; exact .refl h
  | some (.clear ch codes) =>
    exact (clearRequest_only ch codes s).keepsRest h rfl (Part.unnamed rfl) (Part.unnamed rfl)
  | some (.test a l n) => dsimp only [actOnRequest]; rw [testRequest_bad _ _ _ _ _ (test a l n rfl)]; exact .refl h
  | some .ident => exact .refl h
  | some .restart => exact absurd rfl restart

theorem takeRequest_keepsRest (r : ReqHeader) {act : State → State × Option Answer} {s : State} (h : linkAtRest s)
    (k : ∀ u, linkAtRest u → keepsRest u (act u).1) : keepsRest s (takeRequest r act s) := by
  have start := startMark_keepsRest h
  have acted := start.trans (k _ start.2)
  unfold takeRequest; dsimp only; split
  · exact start
  · split
    · split
      · split
        · exact acted.trans (offer_keepsRest acted.2 rfl)
        · exact acted
      · exact acted
    · exact start

/-- A request that concerns no sheet, taken with the link at rest, leaves every entry and every watched position. -/
theorem exec_keepsRest {c : Instr} {r : ReqHeader} {s t : State} (hh : header c = some r)
    (apart : concernsNoSheet (requestOf c)) (h : exec c s = .next t) (rest : linkAtRest s) :
    t.tracker = s.tracker ∧ t.watches = s.watches := by
  rw [exec_request hh] at h
  cases h
  exact (takeRequest_keepsRest r rest fun u i => actOnRequest_keepsRest r _ i apart).1.quiet

/-! ### Only as stated -/

theorem Only.attention {W : List Part} {s t : State} (k : Only W s t) (flags : Part.flags ∉ W)
    (grades : Part.grades ∉ W) (startup : Part.startup ∉ W) : t.attention = s.attention := by
  have a := k.flags.resolve_left flags
  have b := k.grades.resolve_left grades
  have d := k.startup.resolve_left startup
  cases h : t.attention; cases h' : s.attention; simp_all

/-- Settles O6: each part is one that `exec_only` names, and the counter is the Scan Port's of `exec_rejected`. -/
theorem countersAndOutputsChangeOnlyAsStated : Obligations.CountersAndOutputsChangeOnlyAsStated := by
  intro c s t wf h
  have k := exec_only wf h
  refine ⟨?grades, ?rejected, ?startup, ?marker, ?interval, ?lineTest, ?link⟩
  case grades =>
    cases c
    all_goals try exact True.intro
    all_goals exact k.grades.resolve_left (Part.unnamed rfl)
  case rejected =>
    cases c
    all_goals try exact True.intro
    all_goals exact exec_rejected wf rfl h
  case startup =>
    cases c
    all_goals try exact True.intro
    all_goals exact k.startup.resolve_left (Part.unnamed rfl)
  case marker =>
    cases c
    all_goals try exact True.intro
    all_goals exact k.marker.resolve_left (Part.unnamed rfl)
  case interval =>
    cases c
    all_goals try exact True.intro
    all_goals exact k.interval.resolve_left (Part.unnamed rfl)
  case lineTest =>
    cases c
    all_goals try exact True.intro
    all_goals exact k.lineTest.resolve_left (Part.unnamed rfl)
  case link =>
    cases c
    case readyRise | sendingCompletion | beginSending =>
      exact k.attention (Part.unnamed rfl) (Part.unnamed rfl) (Part.unnamed rfl)
    case forcedSeal | releasePosition | divertWindowOpening | divertWindowClosing | blindIntervalOpening
        | blindIntervalClosing | dotEnd | rowPosition | evaluationStart =>
      exact ⟨k.attention (Part.unnamed rfl) (Part.unnamed rfl) (Part.unnamed rfl),
        k.link.resolve_left (Part.unnamed rfl)⟩
    all_goals trivial

/-- A Write of the Alert Mask changes no more than the settings, and what its REPLY may. -/
theorem writeAlertMask_position (h : ReqHeader) (i : Word) (vs : List Word) (s : State) :
    (takeRequest h (writeRequest 0x18 i vs) s).position = s.position := by
  have k : Only (.settings :: rejectParts) s (takeRequest h (writeRequest 0x18 i vs) s) :=
    takeRequest_only (fun u => (writeRequest_only 0x18 i vs u).mono rfl) rfl
  exact k.position.resolve_left (Part.unnamed rfl)

theorem concernsNoSheet_none : concernsNoSheet none := by simp [concernsNoSheet]

/-- Settles O7: the Blind Span, the conditioner and the banks by `exec_only`, frame number and deck value by the Scan
Port's lemmas, and the entries and positions by what the link at rest allows. -/
theorem sheetsAndSpanChangeOnlyAsStated : Obligations.SheetsAndSpanChangeOnlyAsStated := by
  intro c s t wf h
  have k := exec_only wf h
  refine ⟨?blind, ?position, ?expected, ?deckValue, ?pending, ?copy, ?sheets⟩
  case blind =>
    cases c
    all_goals try exact True.intro
    all_goals exact k.blind.resolve_left (Part.unnamed rfl)
  case position =>
    cases c
    case writeAlertMask => cases h; exact writeAlertMask_position ..
    all_goals try exact True.intro
    all_goals exact k.position.resolve_left (Part.unnamed rfl)
  case expected =>
    cases c
    all_goals try exact True.intro
    all_goals exact exec_expected wf rfl h
  case deckValue =>
    cases c
    all_goals try exact True.intro
    all_goals exact exec_deckValue wf rfl h
  case pending =>
    cases c
    all_goals try exact True.intro
    all_goals exact k.commitPending.resolve_left (Part.unnamed rfl)
  case copy =>
    cases c
    all_goals try exact True.intro
    all_goals
      exact ⟨k.copyInFlight.resolve_left (Part.unnamed rfl), k.copyReply.resolve_left (Part.unnamed rfl)⟩
  case sheets =>
    cases c
    case rejectedRecord => intro rest; cases h; exact (takeLine_keepsRest wf rest).1.quiet
    case copyCompletion => intro rest; cases h; exact (completeCopy_keepsRest rest).1.quiet
    case commitTakesEffect => intro rest; cases h; exact (commitIfQueueEmpty_keepsRest _ rest).1.quiet
    case bankRelease => intro rest; cases h; exact (releaseBank_keepsRest _ rest).1.quiet
    case unknownRequest =>
      exact exec_keepsRest rfl (by rw [requestOf_unknown wf]; exact concernsNoSheet_none) h
    case modeRequestBadTarget target =>
      have bad : target.toNat = 0 ∨ 3 < target.toNat := by simpa [Instr.wf] using wf
      refine exec_keepsRest rfl ⟨fun x e => ?_, by simp [requestOf], by simp [requestOf]⟩ h
      obtain rfl : target = x := by simpa [requestOf] using e
      exact bad
    case testRequestBadAction action _ _ =>
      have bad : action.toNat = 0 ∨ 2 < action.toNat := by simpa [Instr.wf] using wf
      refine exec_keepsRest rfl ⟨by simp [requestOf], fun a l n e => ?_, by simp [requestOf]⟩ h
      obtain ⟨rfl, _⟩ : action = a ∧ _ := by simpa [requestOf] using e
      exact bad
    case read | write | writePulseMode | writePulseRatio | writeReverseLimit | writeAlertMask | writeTable | commit
        | copy | clearFlags | clearGradeCounters | clearRejectedCount | ident =>
      exact exec_keepsRest rfl ⟨by simp [requestOf], by simp [requestOf], by simp [requestOf]⟩ h
    case dotEnd | rowPosition | blindIntervalOpening | blindIntervalClosing =>
      exact k.tracker (Part.unnamed rfl) (Part.unnamed rfl) (Part.unnamed rfl)
    all_goals trivial

end Sys2Proof.Machine
end

section
/-! Marking OPEN entries suspect (R47, R48), and the frame numbering that brings it about (R13, R14). -/
namespace Sys2Proof.Machine
open Sys2Proof.Safety

/-! ### Entries by tag -/

/-- With distinct tags each entry is found by its own. -/
theorem findEntry_self {s : State} (d : tagsDistinct s) {e : Entry} (m : e ∈ s.tracker.sheets) :
    findEntry e.tag s = some e := by
  have nodup : (s.tracker.sheets.map (·.tag)).Nodup := d
  unfold findEntry
  generalize s.tracker.sheets = l at m nodup
  induction l with
  | nil => cases m
  | cons a l ih =>
    obtain ⟨fresh, nodup⟩ := List.nodup_cons.mp nodup
    rcases List.mem_cons.mp m with rfl | m
    · simp
    · have other : a.tag ≠ e.tag := fun k => fresh (List.mem_map.mpr ⟨e, m, k.symm⟩)
      rw [List.find?_cons_of_neg (by simpa using other)]
      exact ih m nodup

theorem mem_tagsWhere {p : Entry → Bool} {s : State} {tag : Tag} :
    tag ∈ tagsWhere p s ↔ ∃ e ∈ s.tracker.sheets, p e = true ∧ e.tag = tag := by
  simp only [tagsWhere, List.mem_map, List.mem_filter, and_assoc]

theorem tagsWhere_nodup (p : Entry → Bool) {s : State} (d : tagsDistinct s) : (tagsWhere p s).Nodup :=
  (List.filter_sublist.map _).nodup d

/-- With distinct tags an entry's tag is among those of a kind exactly when the entry is of that kind. -/
theorem tag_mem_tagsWhere {p : Entry → Bool} {s : State} (d : tagsDistinct s) {e : Entry}
    (m : e ∈ s.tracker.sheets) : e.tag ∈ tagsWhere p s ↔ p e = true := by
  rw [mem_tagsWhere]
  constructor
  · rintro ⟨x, mx, px, same⟩
    have found := findEntry_self d mx
    rw [same, findEntry_self d m] at found
    cases found; exact px
  · exact fun pe => ⟨e, m, pe, rfl⟩

/-- Updates of several entries, one after another, are one update of all of them. -/
theorem sheets_foldl_modifyEntry {f : Entry → Entry} (hf : ∀ e, (f e).tag = e.tag) :
    ∀ (tags : List Tag) (s : State), tags.Nodup →
      (tags.foldl (fun s tag => modifyEntry tag f s) s).tracker.sheets =
        s.tracker.sheets.map fun e => if e.tag ∈ tags then f e else e
  | [], s, _ => by simp
  | tag :: tags, s, nodup => by
    obtain ⟨fresh, nodup⟩ := List.nodup_cons.mp nodup
    rw [List.foldl_cons, sheets_foldl_modifyEntry hf tags _ nodup]
    simp only [modifyEntry, State.setTracker_tracker, List.map_map]
    refine List.map_congr_left fun e _ => ?_
    by_cases k : e.tag = tag
    · simp [k, hf, fresh]
    · simp [k]

/-! ### Marking an OPEN entry -/

/-- The flags of an entry marked suspect for a cause (R48). -/
def Entry.marked (own : EntryFlags → EntryFlags) (e : Entry) : Entry :=
  { e with flags := { own e.flags with suspect := true } }

theorem Entry.marked_tag (own : EntryFlags → EntryFlags) (e : Entry) : (e.marked own).tag = e.tag := rfl

theorem flagSuspect_eq (own : EntryFlags → EntryFlags) (tag : Tag) (s : State) :
    flagSuspect own tag s = modifyEntry tag (Entry.marked own) s := rfl

/-- Marking an OPEN entry sets its flags and nothing else (Table 3-4). -/
theorem markSuspect_open {c : Ctx} {own : EntryFlags → EntryFlags} {tag : Tag} {s : State} {e : Entry}
    (found : findEntry tag s = some e) (isOpen : e.isOpen = true) :
    markSuspect c own tag s = modifyEntry tag (Entry.marked own) s := by
  unfold markSuspect
  rw [withEntry_some found, flagSuspect_eq]
  exact if_pos isOpen

/-- Marking OPEN entries sets their flags and nothing else. -/
theorem markAll_open {c : Ctx} {own : EntryFlags → EntryFlags} :
    ∀ (tags : List Tag) (s : State), (∀ tag ∈ tags, ∃ e, findEntry tag s = some e ∧ e.isOpen = true) →
      markAll c own tags s = tags.foldl (fun s tag => modifyEntry tag (Entry.marked own) s) s
  | [], _, _ => rfl
  | tag :: tags, s, opened => by
    obtain ⟨e, found, isOpen⟩ := opened tag (.head _)
    have later : ∀ x ∈ tags, ∃ e, findEntry x (modifyEntry tag (Entry.marked own) s) = some e ∧ e.isOpen = true := by
      intro x m
      obtain ⟨e, found, isOpen⟩ := opened x (.tail _ m)
      refine ⟨_, (findEntry_modifyEntry (Entry.marked_tag own) x).trans (congrArg _ found), ?_⟩
      dsimp only; split <;> exact isOpen
    have first : markAll c own (tag :: tags) s = markAll c own tags (markSuspect c own tag s) := rfl
    rw [first, markSuspect_open found isOpen, markAll_open tags _ later, List.foldl_cons]

/-- With distinct tags, marking every OPEN entry is one update of the queue, and no flag of the part is raised. -/
theorem markAll_isOpen {c : Ctx} {own : EntryFlags → EntryFlags} {s : State} (d : tagsDistinct s) :
    (markAll c own (tagsWhere Entry.isOpen s) s).tracker.sheets =
        s.tracker.sheets.map (fun e => if e.isOpen then e.marked own else e) ∧
      (markAll c own (tagsWhere Entry.isOpen s) s).attention = s.attention := by
  have opened : ∀ tag ∈ tagsWhere Entry.isOpen s, ∃ e, findEntry tag s = some e ∧ e.isOpen = true := by
    intro tag m
    obtain ⟨e, me, isOpen, rfl⟩ := mem_tagsWhere.mp m
    exact ⟨e, findEntry_self d me, isOpen⟩
  rw [markAll_open _ _ opened]
  constructor
  · rw [sheets_foldl_modifyEntry (Entry.marked_tag own) _ _ (tagsWhere_nodup _ d)]
    refine List.map_congr_left fun e m => ?_
    simp only [tag_mem_tagsWhere d m]
  · have k : Only [.entries] s
        ((tagsWhere Entry.isOpen s).foldl (fun s tag => modifyEntry tag (Entry.marked own) s) s) :=
      only_foldl (fun s tag => modifyEntry_only tag (Entry.marked own) s fun _ => ⟨rfl, rfl, rfl⟩) _ _
    exact k.attention (Part.unnamed rfl) (Part.unnamed rfl) (Part.unnamed rfl)

/-! ### Frame numbering -/

theorem numberFrame_inOrder {n : Word} {s : State} (h : s.scan.expected = none ∨ s.scan.expected = some n) :
    numberFrame n s = s.setScan { s.scan with expected := some (n + 1) } := by
  unfold numberFrame
  rcases h with h | h <;> simp [h]

theorem numberFrame_gap {n m : Word} {s : State} (h : s.scan.expected = some m) (ne : m ≠ n) :
    ∃ v, numberFrame n s = (frameGapNotice (Ctx.now s) (raise (Ctx.now s) .frameGap s)).setScan v := by
  unfold numberFrame
  simp only [h, if_neg ne]
  exact ⟨_, rfl⟩

/-- What a gap does, with the link at rest: FRAME_GAP, and every OPEN entry marked (R14, R47). -/
theorem frameGap_marks (c : Ctx) {s : State} (d : tagsDistinct s) (rest : linkAtRest s) :
    (frameGapNotice c (raise c .frameGap s)).tracker.sheets =
        s.tracker.sheets.map (fun e => if e.isOpen then e.marked (fun f => { f with frameGap := true }) else e) ∧
      raises [.frameGap] s (frameGapNotice c (raise c .frameGap s)) := by
  have sheets : (raise c .frameGap s).tracker.sheets = s.tracker.sheets :=
    (raise_rest rest).entries.resolve_left (Part.unnamed rfl)
  have distinct : tagsDistinct (raise c .frameGap s) := by unfold tagsDistinct tagsOf; rw [sheets]; exact d
  obtain ⟨marked, attention⟩ :=
    markAll_isOpen (c := c) (own := fun f => { f with frameGap := true }) distinct
  refine ⟨?_, ?_⟩
  · rw [← sheets]; exact marked
  · unfold raises frameGapNotice flagSet
    rw [attention]
    exact raises_raise c .frameGap s

theorem armSilence_rest {s : State} (h : linkAtRest s) : linkAtRest (armSilence s) :=
  linkAtRest_only (armSilence_only s) (Part.unnamed rfl) (Part.unnamed rfl) h

/-- Settles O18: a FRAME in order sets the number alone, and a gap marks the OPEN entries besides. -/
theorem frameNumbering : Obligations.FrameNumbering := by
  intro s number taken d rest
  refine ⟨numberFrame number (armSilence s), ?_, by rw [numberFrame_scan], fun inOrder => ?_, fun n gap ne => ?_⟩
  · have row : traffic s (.frame s.scan.deckValue number) = some (s.scan.deckValue, true) := rfl
    rw [exec_traffic row, takeTraffic_accepted taken]; rfl
  · rw [numberFrame_inOrder (s := armSilence s) inOrder]
    exact ⟨rfl, rfl⟩
  · obtain ⟨v, k⟩ := numberFrame_gap (s := armSilence s) gap ne
    obtain ⟨marked, raised⟩ := frameGap_marks (Ctx.now (armSilence s)) (s := armSilence s) d (armSilence_rest rest)
    rw [k]
    exact ⟨raised, marked⟩

end Sys2Proof.Machine
end

section
/-! What the operations on sheets leave alone: the silence position, the flags that are set, and, but for marks and
closes, the outline of every entry. Each operation has one lemma, in the order of the model. -/
namespace Sys2Proof.Machine
open Sys2Proof.Safety

/-! ### What is left alone -/

/-- The watched silence positions. -/
def silences (s : State) : List Watch := s.watches.filter fun w => w.kind = .silence

/-- The flags of an entry that a decision does not set (R45). -/
def EntryFlags.causes (f : EntryFlags) : EntryFlags := { f with late := false, fatal := false }

/-- Edges, state and marks of an entry: what only a mark and a close change. -/
structure Outline where
  tag : Tag
  state : SheetState
  leading : Position
  trailing : Option Position
  causes : EntryFlags

def Entry.outline (e : Entry) : Outline := ⟨e.tag, e.state, e.leading, e.trailing, e.flags.causes⟩

/-- The outlines of the Sheet Queue, oldest first. -/
def outlines (s : State) : List Outline := s.tracker.sheets.map Entry.outline

/-- The silence position stands, and no flag is cleared. -/
structure Calm (s t : State) : Prop where
  silences : silences t = silences s
  flags : ∀ f, flagSet s f = true → flagSet t f = true

/-- Besides, every entry keeps its outline, and its place. -/
structure Background (s t : State) : Prop extends Calm s t where
  outlines : outlines t = outlines s

theorem Calm.refl (s : State) : Calm s s := ⟨rfl, fun _ h => h⟩
theorem Calm.trans {s t u : State} (h : Calm s t) (k : Calm t u) : Calm s u :=
  ⟨k.silences.trans h.silences, fun f i => k.flags f (h.flags f i)⟩

theorem Background.refl (s : State) : Background s s := ⟨.refl s, rfl⟩
theorem Background.trans {s t u : State} (h : Background s t) (k : Background t u) : Background s u :=
  ⟨h.toCalm.trans k.toCalm, k.outlines.trans h.outlines⟩

/-- The last operation first: what it leaves alone, and what ran before it. -/
theorem Background.via {s t u : State} (k : Background t u) (h : Background s t) : Background s u := h.trans k

theorem Only.calm {W : List Part} {s t : State} (k : Only W s t) (watches : W.contains .watches = false)
    (flags : W.contains .flags = false) : Calm s t :=
  ⟨by unfold Machine.silences; rw [k.watches.resolve_left (Part.unnamed watches)],
    fun f i => (k.flagSet (Part.unnamed flags) f).trans i⟩

theorem Only.background {W : List Part} {s t : State} (k : Only W s t) (watches : W.contains .watches = false)
    (flags : W.contains .flags = false) (entries : W.contains .entries = false) : Background s t :=
  ⟨k.calm watches flags, by unfold Machine.outlines; rw [k.entries.resolve_left (Part.unnamed entries)]⟩

theorem withEntry_background {tag : Tag} {f : Entry → State → State} {s : State} (h : ∀ e, Background s (f e s)) :
    Background s (withEntry tag f s) := by
  unfold withEntry; split
  · exact h _
  · exact .refl s

theorem foldl_calm {α : Type} {f : State → α → State} (h : ∀ s a, Calm s (f s a)) :
    ∀ (l : List α) (s : State), Calm s (l.foldl f s)
  | [], s => .refl s
  | a :: l, s => (h s a).trans (foldl_calm h l _)

theorem foldl_background {α : Type} {f : State → α → State} (h : ∀ s a, Background s (f s a)) :
    ∀ (l : List α) (s : State), Background s (l.foldl f s)
  | [], s => .refl s
  | a :: l, s => (h s a).trans (foldl_background h l _)

/-! ### Positions and entries -/

theorem arm_background (c : Ctx) {k : WatchKind} (p : Position) (s : State) (n : k ≠ .silence) :
    Background s (arm c k p s) :=
  ⟨⟨by simp [silences, arm, n], fun _ i => i⟩, rfl⟩

theorem disarm_background {k : WatchKind} (s : State) (n : k ≠ .silence) : Background s (disarm k s) := by
  refine ⟨⟨?_, fun _ i => i⟩, rfl⟩
  unfold silences disarm
  rw [State.setWatches_watches, List.filter_filter]
  refine List.filter_congr fun w _ => ?_
  by_cases h : w.kind = .silence <;> simp [h, n.symm]

theorem disarmFirst_background {k : WatchKind} (p : Position) (s : State) (n : k ≠ .silence) :
    Background s (disarmFirst k p s) := by
  refine ⟨⟨?_, fun _ i => i⟩, rfl⟩
  unfold silences disarmFirst
  rw [State.setWatches_watches]
  induction s.watches with
  | nil => rfl
  | cons w l ih =>
    rw [List.eraseP_cons]
    by_cases taken : w.kind = k
    · by_cases place : w.pos = p
      · simp [taken, place, n]
      · simpa [taken, place, n] using ih
    · simp only [taken, decide_false, Bool.false_and, cond_false, List.filter_cons, ih]

theorem modifyEntry_calm (tag : Tag) (f : Entry → Entry) (s : State) : Calm s (modifyEntry tag f s) :=
  ⟨rfl, fun _ i => i⟩

/-- An update of one entry, as its outline shows it. -/
theorem outlines_modifyEntry {tag : Tag} {f : Entry → Entry} {g : Outline → Outline}
    (h : ∀ e, (f e).outline = g e.outline) (s : State) :
    outlines (modifyEntry tag f s) = (outlines s).map fun o => if o.tag = tag then g o else o := by
  unfold outlines modifyEntry
  rw [State.setTracker_tracker, List.map_map, List.map_map]
  refine List.map_congr_left fun e _ => ?_
  have same : e.outline.tag = e.tag := rfl
  by_cases k : e.tag = tag <;> simp [k, h, same]

theorem modifyEntry_background (tag : Tag) {f : Entry → Entry} (s : State) (h : ∀ e, (f e).outline = e.outline) :
    Background s (modifyEntry tag f s) :=
  ⟨modifyEntry_calm .., (outlines_modifyEntry (g := id) h s).trans (by simp)⟩

/-- Where no entry has the tag, an update by tag changes nothing. -/
theorem modifyEntry_absent {tag : Tag} {s : State} (h : findEntry tag s = none) (f : Entry → Entry) :
    modifyEntry tag f s = s := by
  have same : (s.tracker.sheets.map fun e => if e.tag = tag then f e else e) = s.tracker.sheets := by
    refine (List.map_congr_left fun e m => ?_).trans (List.map_id _)
    exact if_neg (by simpa using List.find?_eq_none.mp h e m)
  unfold modifyEntry; rw [same]; rfl

/-! ### The link and the flags -/

theorem routeSent_background (r : OutRecord) (s : State) : Background s (routeSent r s) := by
  unfold routeSent; split
  · exact .via (disarm_background _ (by simp)) (modifyEntry_background _ s fun _ => rfl)
  · exact .refl s

theorem tryBegin_background (s : State) : Background s (tryBegin s) := by
  rcases tryBegin_cases s with k | ⟨r, rest, _, _, k⟩
  · rw [k.1]; exact .refl s
  · rw [k]; exact .via (routeSent_background ..) ((setLink_only s _).background rfl rfl rfl)

theorem setFlag_background (f : Flag) (s : State) : Background s (setFlag f s) :=
  ⟨⟨rfl, fun g i => by rw [flagSet_setFlag, i, Bool.or_true]⟩, rfl⟩

theorem offer_background (r : OutRecord) (s : State) : Background s (offer r s) := by
  unfold offer; split
  · exact ((enqueue_only r s).background rfl rfl rfl).trans (tryBegin_background _)
  · exact setFlag_background ..

theorem raise_background (c : Ctx) (f : Flag) (s : State) : Background s (raise c f s) := by
  unfold raise; split
  · exact .refl s
  · dsimp only; split
    · exact (setFlag_background f s).trans (offer_background ..)
    · exact setFlag_background f s

/-! ### Banks -/

theorem releaseBank_background (c : Ctx) (s : State) : Background s (releaseBank c s) := by
  unfold releaseBank; split
  · exact .via (raise_background ..) ⟨⟨rfl, fun _ i => i⟩, rfl⟩
  · exact .refl s

theorem releaseHold_background (c : Ctx) (id : BankId) (s : State) : Background s (releaseHold c id s) := by
  unfold releaseHold; dsimp only; split
  · exact (setHolders_only ..).background rfl rfl rfl
  · exact .via (releaseBank_background ..) ((setHolders_only ..).background rfl rfl rfl)

theorem endHold_background (c : Ctx) (tag : Tag) (s : State) : Background s (endHold c tag s) := by
  refine withEntry_background fun e => ?_
  split
  · exact .via (releaseHold_background ..) (modifyEntry_background tag s fun _ => rfl)
  · exact .refl s

theorem commitIfPending_background (c : Ctx) (s : State) : Background s (commitIfPending c s) := by
  unfold commitIfPending; split
  · exact Background.via (raise_background ..) ⟨⟨rfl, fun _ i => i⟩, rfl⟩
  · exact .refl s

/-! ### Decisions -/

theorem routeDecided_background (c : Ctx) (tag : Tag) (s : State) : Background s (routeDecided c tag s) := by
  refine withEntry_background fun e => ?_
  split
  · split
    · exact .via (arm_background _ _ _ (by simp)) (disarm_background s (by simp))
    · exact .refl s
  · exact .refl s

theorem markerDecided_background (c : Ctx) (tag : Tag) (first : Bool) (s : State) :
    Background s (markerDecided c tag first s) := by
  unfold markerDecided; split
  · exact withEntry_background fun e => arm_background _ _ _ (by simp)
  · exact .refl s

theorem decideAs_background (c : Ctx) (d : Decision) (tag : Tag) (e : Entry) (s : State) :
    Background s (decideAs c d tag e s) :=
  .via (markerDecided_background ..) (.via (routeDecided_background ..)
    (.via ((unlist_only tag _).background rfl rfl rfl) (modifyEntry_background tag s fun _ => rfl)))

theorem decideEntry_background (c : Ctx) (source : DecisionSource) (tag : Tag) (s : State) :
    Background s (decideEntry c source tag s) :=
  withEntry_background fun _ => decideAs_background ..

/-! ### Features and samples -/

theorem tallyFeature_background (c : Ctx) (tag : Tag) (kind : BitVec 5) (band : Fin 4) (along across : Word) (z : Zone)
    (s : State) : Background s (tallyFeature c tag kind band along across z s) := by
  refine withEntry_background fun e => ?_
  have tallied := fun cls size area => modifyEntry_background tag s (f := fun e => e.tallied cls size area) fun _ => rfl
  dsimp only; split
  · exact .via (decideEntry_background ..) (tallied ..)
  · exact tallied ..

theorem overflowHold_background (c : Ctx) (tag : Tag) (s : State) : Background s (overflowHold c tag s) := by
  refine withEntry_background fun e => ?_
  split
  · split
    · exact .via (tallyFeature_background ..) (.via (disarmFirst_background _ _ (by simp))
        (modifyEntry_background tag s fun _ => rfl))
    · exact .refl s
  · exact .refl s

theorem holdFeature_background (c : Ctx) (tag : Tag) (h : HeldFeature) (s : State) :
    Background s (holdFeature c tag h s) :=
  .via (arm_background _ _ _ (by simp)) (.via (modifyEntry_background tag _ fun _ => rfl)
    (overflowHold_background c tag s))

theorem classifyFeature_background (c : Ctx) (tag : Tag) (lane : Lane) (kind : BitVec 5) (along across : Word)
    (p : Position) (s : State) : Background s (classifyFeature c tag lane kind along across p s) := by
  refine withEntry_background fun e => ?_
  dsimp only; split
  · exact tallyFeature_background ..
  · split
    · exact tallyFeature_background ..
    · exact holdFeature_background ..

theorem emptyHold_background (c : Ctx) (tag : Tag) (s : State) : Background s (emptyHold c tag s) := by
  refine withEntry_background fun e => ?_
  refine .via (foldl_background (fun s h => ?_) _ _) (modifyEntry_background tag s fun _ => rfl)
  exact .via (tallyFeature_background ..) (disarmFirst_background _ s (by simp))

theorem summariseSample_background (tag : Tag) (lane : Lane) (r t : Word) (s : State) :
    Background s (summariseSample tag lane r t s) :=
  withEntry_background fun _ => modifyEntry_background tag s fun _ => rfl

/-! ### Closing -/

theorem startEvaluation_background (s : State) : Background s (startEvaluation s) := by
  unfold startEvaluation; split
  · exact withEntry_background fun e =>
      .via (modifyEntry_background _ _ fun _ => rfl) ((setEvaluator_only s _).background rfl rfl rfl)
  · exact .refl s

theorem settleClosed_background (c : Ctx) (tag : Tag) (s : State) : Background s (settleClosed c tag s) := by
  refine withEntry_background fun e => ?_
  split
  · exact decideEntry_background ..
  · split
    · exact .refl s
    · exact .via (startEvaluation_background _) (.via (modifyEntry_background tag _ fun _ => rfl)
        ((setEvaluator_only s _).background rfl rfl rfl))

/-- A mark is the flags of the entry, and what goes on in the background (R48). -/
theorem markSuspect_background (c : Ctx) (own : EntryFlags → EntryFlags) (tag : Tag) (s : State) :
    Background (modifyEntry tag (Entry.marked own) s) (markSuspect c own tag s) := by
  unfold markSuspect
  cases found : findEntry tag s with
  | none =>
    rw [modifyEntry_absent found]
    unfold withEntry; rw [found]; exact .refl s
  | some e =>
    rw [withEntry_some found, flagSuspect_eq]
    dsimp only; split
    · exact .refl _
    · split
      · exact .via (endHold_background ..) (decideEntry_background ..)
      · split
        · exact decideAs_background ..
        · exact .refl _

/-- A close is the trailing edge of the entry, and what goes on in the background (R42). -/
theorem closeEntry_background (c : Ctx) (tag : Tag) (p : Position) (s : State) :
    Background (modifyEntry tag (fun e => e.closedAt p) s) (closeEntry c tag p s) := by
  unfold closeEntry
  cases found : findEntry tag s with
  | none =>
    rw [modifyEntry_absent found]
    unfold withEntry; rw [found]; exact .refl s
  | some e =>
    rw [withEntry_some found]
    exact .via (endHold_background ..) (.via (settleClosed_background ..) (.via (emptyHold_background ..)
      (.via (arm_background _ _ _ (by simp)) (disarm_background _ (by simp)))))

theorem markSuspect_calm (c : Ctx) (own : EntryFlags → EntryFlags) (tag : Tag) (s : State) :
    Calm s (markSuspect c own tag s) :=
  (modifyEntry_calm tag _ s).trans (markSuspect_background ..).toCalm

theorem closeEntry_calm (c : Ctx) (tag : Tag) (p : Position) (s : State) : Calm s (closeEntry c tag p s) :=
  (modifyEntry_calm tag _ s).trans (closeEntry_background ..).toCalm

theorem forceCloseAll_calm (c : Ctx) (own : EntryFlags → EntryFlags) (tags : List Tag) (p : Position) (s : State) :
    Calm s (forceCloseAll c own tags p s) :=
  foldl_calm (fun s tag => (markSuspect_calm c own tag s).trans (closeEntry_calm c tag p _)) _ _

theorem frameGapNotice_calm (c : Ctx) (s : State) : Calm s (frameGapNotice c s) :=
  foldl_calm (fun s tag => markSuspect_calm c _ tag s) _ _

end Sys2Proof.Machine
end

section
/-! An accepted record of a sheet leaves the silence position its stamp has armed; and the silence position closes every
OPEN entry. -/
namespace Sys2Proof.Machine
open Sys2Proof.Safety

/-! ### The Blind Span -/

theorem intervalCreated_background (c : Ctx) (p : Position) (s : State) : Background s (intervalCreated c p s) :=
  .via (arm_background _ _ _ (by simp)) (.via (disarm_background _ (by simp)) (.via (disarm_background _ (by simp))
    ((setInterval_only s _).background rfl rfl rfl)))

theorem intervalUnsealed_background (s : State) : Background s (intervalUnsealed s) :=
  .via (disarm_background _ (by simp)) ((setInterval_only s _).background rfl rfl rfl)

theorem intervalSealed_background (c : Ctx) (p : Position) (s : State) : Background s (intervalSealed c p s) :=
  .via (arm_background _ _ _ (by simp)) (.via (disarm_background _ (by simp))
    ((setInterval_only s _).background rfl rfl rfl))

theorem blindOpen_background (c : Ctx) (p : Position) (s : State) : Background s (blindOpen c p s) := by
  unfold blindOpen; split
  · exact .via (intervalCreated_background ..) (.via (raise_background ..) (.via (arm_background _ _ _ (by simp))
      ((setBlind_only s _).background rfl rfl rfl)))
  · next b _ =>
    have extended : Background s (arm c .forcedSeal (p + maxSheet s) (disarm .forcedSeal (s.setTracker { s.tracker with
        blind := some { b with outstanding := satInc 255 b.outstanding, latest := p, sealState := .unsealed } }))) :=
      .via (arm_background _ _ _ (by simp)) (.via (disarm_background _ (by simp))
        ((setBlind_only s _).background rfl rfl rfl))
    dsimp only; split
    · exact .via (intervalUnsealed_background _) (.via (raise_background ..)
        (.via (disarm_background _ (by simp)) extended))
    · exact extended

theorem blindClose_background (c : Ctx) (b : BlindSpan) (p : Position) (s : State) :
    Background s (blindClose c b p s) := by
  unfold blindClose; dsimp only; split
  · exact .via (intervalSealed_background ..) (.via (arm_background _ _ _ (by simp))
      (.via (disarm_background _ (by simp)) ((setBlind_only s _).background rfl rfl rfl)))
  · exact (setBlind_only s _).background rfl rfl rfl

/-! ### The records of a sheet -/

theorem spanConflict_calm (c : Ctx) (p : Position) (first last : Lane) (s : State) :
    Calm s (spanConflict c p first last s) := by
  unfold spanConflict; split
  · exact .refl s
  · exact (forceCloseAll_calm ..).trans (raise_background ..).toCalm

theorem openEntry_calm (c : Ctx) (p : Position) (first last : Lane) (s : State) :
    Calm s (openEntry c p first last s) := by
  have committed := (commitIfPending_background c s).toCalm
  unfold openEntry; dsimp only
  generalize commitIfPending c s = u at committed
  refine committed.trans (Calm.trans (Calm.trans ?_ (arm_background _ _ _ (by simp)).toCalm)
    (arm_background _ _ _ (by simp)).toCalm)
  exact ⟨rfl, fun _ i => i⟩

theorem takeOpen_calm (first last : Lane) (o : Byte) (p : Position) (s : State) :
    Calm s (takeOpen first last o p s) := by
  have closed := spanConflict_calm (Ctx.now s) (placed s p o) first last s
  unfold takeOpen; dsimp only; split
  · exact closed.trans (openEntry_calm ..)
  · exact closed.trans (blindOpen_background ..).toCalm

theorem unattributed_calm (s : State) : Calm s (unattributed s) := by
  unfold unattributed; split
  · exact .refl s
  · exact (raise_background ..).toCalm

theorem takeFeature_calm (lane : Lane) (k : BitVec 5) (a w : Word) (o : Byte) (p : Position) (s : State) :
    Calm s (takeFeature lane k a w o p s) := by
  unfold takeFeature; split
  · exact (classifyFeature_background ..).toCalm
  · exact unattributed_calm s

theorem takeMoist_calm (lane : Lane) (r t : Word) (s : State) : Calm s (takeMoist lane r t s) := by
  unfold takeMoist; split
  · exact (summariseSample_background ..).toCalm
  · exact unattributed_calm s

theorem takeClose_calm (first last : Lane) (o : Byte) (p : Position) (s : State) :
    Calm s (takeClose first last o p s) := by
  unfold takeClose; dsimp only; split
  · refine Calm.trans ?_ (closeEntry_calm ..)
    split
    · exact .refl s
    · exact markSuspect_calm ..
  · split
    · split
      · exact (blindClose_background ..).toCalm
      · exact (raise_background ..).toCalm
    · exact (raise_background ..).toCalm

theorem numberFrame_calm (n : Word) (s : State) : Calm s (numberFrame n s) := by
  have numbered : ∀ (v : ScanPort) (u : State), Calm u (u.setScan v) := fun _ _ => ⟨rfl, fun _ i => i⟩
  unfold numberFrame; dsimp only
  refine Calm.trans ?_ (numbered _ _)
  split
  · exact .refl s
  · split
    · exact .refl s
    · exact (raise_background ..).toCalm.trans (frameGapNotice_calm ..)

theorem trafficAct_calm (c : Instr) (p : Position) (s : State) : Calm s (trafficAct c p s) := by
  cases c
  case frame => exact numberFrame_calm ..
  case openSheet => exact takeOpen_calm ..
  case feature => exact takeFeature_calm ..
  case moist => exact takeMoist_calm ..
  case closeSheet => exact takeClose_calm ..
  all_goals exact .refl s

/-! ### The stamp -/

theorem mem_silences {w : Watch} {s : State} : w ∈ silences s ↔ w ∈ s.watches ∧ w.kind = .silence := by
  simp [silences]

/-- After a stamp the one silence position watched is one Silence Distance on (R15). -/
theorem mem_silences_armSilence {w : Watch} {s : State} (h : w ∈ silences (armSilence s)) :
    w.pos = s.position.belt + bu s.settings.silenceDistance := by
  obtain ⟨m, kind⟩ := mem_silences.mp h
  simp only [armSilence, arm, disarm, State.setWatches_watches, List.mem_append, List.mem_filter,
    List.mem_singleton] at m
  rcases m with ⟨_, other⟩ | rfl
  · exact absurd kind (by simpa using other)
  · rfl

theorem watched_armSilence (s : State) :
    watched (armSilence s) .silence (s.position.belt + bu s.settings.silenceDistance) := watched_arm ..

/-- Whatever leaves the silence positions leaves what is watched of them. -/
theorem Calm.watched_silence {s t : State} (h : Calm s t) {p : Position} (k : watched s .silence p) :
    watched t .silence p := by
  obtain ⟨w, m, kind, pos⟩ := k
  have mt : w ∈ Machine.silences t := h.silences ▸ mem_silences.mpr ⟨m, kind⟩
  exact ⟨w, (mem_silences.mp mt).1, kind, pos⟩

/-- The act of an accepted record leaves the rest of the Scan Port as the stamp left it. -/
theorem trafficAct_stamp (c : Instr) (p : Position) (s : State) :
    ∃ n, (trafficAct c p s).scan = { s.scan with expected := n } := by
  by_cases h : ∃ d n, c = .frame d n
  · obtain ⟨d, n, rfl⟩ := h
    exact ⟨_, numberFrame_scan n s⟩
  · exact ⟨s.scan.expected, trafficAct_scan (fun d n e => h ⟨d, n, e⟩) p s⟩

/-- Settles O17: the stamp arms the watch, and the act of the record leaves both. -/
theorem acceptedTrafficIsStamped : Obligations.AcceptedTrafficIsStamped := by
  intro c s taken row
  have calm := trafficAct_calm c s.position.belt (armSilence s)
  obtain ⟨n, scan⟩ := trafficAct_stamp c s.position.belt (armSilence s)
  refine ⟨trafficAct c s.position.belt (armSilence s), by rw [exec_traffic row, takeTraffic_accepted taken],
    by rw [scan]; rfl, by rw [scan]; rfl, by rw [scan]; exact taken.2, by rw [scan]; rfl,
    calm.watched_silence (watched_armSilence s), fun w m kind => ?_⟩
  have stands : w ∈ silences (armSilence s) := calm.silences ▸ mem_silences.mpr ⟨m, kind⟩
  exact mem_silences_armSilence stands

/-! ### Marks and closes, as outlines show them -/

/-- A mark, on an outline (R48). -/
def Outline.marked (own : EntryFlags → EntryFlags) (o : Outline) : Outline :=
  { o with causes := { (own o.causes).causes with suspect := true } }

/-- A close, on an outline (R42, step 1). -/
def Outline.closedAt (p : Position) (o : Outline) : Outline :=
  if before p o.leading then
    { o with trailing := some o.leading, state := .closed, causes := { o.causes with suspect := true } }
  else { o with trailing := some p, state := .closed }

/-- A cause's own flag does not rest on the flags a decision sets. -/
def ownCause (own : EntryFlags → EntryFlags) : Prop := ∀ f, (own f).causes = (own f.causes).causes

theorem outline_marked {own : EntryFlags → EntryFlags} (h : ownCause own) (e : Entry) :
    (e.marked own).outline = e.outline.marked own := by
  have flags : { (own e.flags).causes with suspect := true } =
      { (own e.flags.causes).causes with suspect := true } := by rw [h]
  exact congrArg (Outline.mk e.tag e.state e.leading e.trailing) flags

theorem outline_closedAt (p : Position) (e : Entry) : (e.closedAt p).outline = e.outline.closedAt p := by
  unfold Entry.closedAt Outline.closedAt
  by_cases k : before p e.leading = true
  · rw [if_pos k, if_pos (show before p e.outline.leading = true from k)]; rfl
  · rw [if_neg k, if_neg (show ¬ before p e.outline.leading = true from k)]; rfl

theorem Outline.closedAt_tag (p : Position) (o : Outline) : (o.closedAt p).tag = o.tag := by
  unfold Outline.closedAt; split <;> rfl

/-- The outlines after one entry is marked and closed: its own has changed, and no other. -/
theorem outlines_forceClose (c : Ctx) {own : EntryFlags → EntryFlags} (h : ownCause own) (tag : Tag) (p : Position)
    (s : State) : outlines (closeEntry c tag p (markSuspect c own tag s)) =
      (outlines s).map fun o => if o.tag = tag then (o.marked own).closedAt p else o := by
  rw [(closeEntry_background ..).outlines, outlines_modifyEntry (outline_closedAt p),
    (markSuspect_background ..).outlines, outlines_modifyEntry (outline_marked h), List.map_map]
  refine List.map_congr_left fun o _ => ?_
  by_cases k : o.tag = tag
  · have same : (o.marked own).tag = tag := k
    simp [k, same]
  · simp [k]

/-- The outlines after a force-close: those of the entries named have changed, and no other (R36, R44). -/
theorem outlines_forceCloseAll (c : Ctx) {own : EntryFlags → EntryFlags} (h : ownCause own) (p : Position) :
    ∀ (tags : List Tag) (s : State), tags.Nodup → outlines (forceCloseAll c own tags p s) =
      (outlines s).map fun o => if o.tag ∈ tags then (o.marked own).closedAt p else o
  | [], s, _ => by simp [forceCloseAll]
  | tag :: tags, s, nodup => by
    obtain ⟨fresh, nodup⟩ := List.nodup_cons.mp nodup
    have first : forceCloseAll c own (tag :: tags) p s =
        forceCloseAll c own tags p (closeEntry c tag p (markSuspect c own tag s)) := rfl
    rw [first, outlines_forceCloseAll c h p tags _ nodup, outlines_forceClose c h, List.map_map]
    refine List.map_congr_left fun o _ => ?_
    by_cases k : o.tag = tag
    · have same : ((o.marked own).closedAt p).tag = tag := (Outline.closedAt_tag p _).trans k
      simp [k, same, fresh]
    · simp [k]

/-! ### The silence position -/

/-- The OPEN entries are told by their outlines. -/
theorem tagsWhere_isOpen (s : State) :
    tagsWhere Entry.isOpen s = ((outlines s).filter fun o => o.state = .opened).map (·.tag) := by
  unfold tagsWhere outlines
  rw [List.filter_map, List.map_map]
  rfl

theorem ownCause_silent : ownCause fun f => { f with silent := true } := fun _ => rfl

/-- What a force-close by the silence notice leaves of an entry (R44, R42). -/
theorem outline_silenced (p : Position) {x e : Entry}
    (h : x.outline = (e.outline.marked fun f => { f with silent := true }).closedAt p) :
    x.tag = e.tag ∧ x.state = .closed ∧ x.flags.suspect = true ∧ x.flags.silent = true ∧
      x.trailing = some (if before p e.leading then e.leading else p) := by
  unfold Outline.closedAt at h
  by_cases k : before p e.leading = true
  · rw [if_pos (show before p (e.outline.marked _).leading = true from k)] at h
    exact ⟨congrArg Outline.tag h, congrArg Outline.state h, congrArg (·.causes.suspect) h,
      congrArg (·.causes.silent) h, (congrArg Outline.trailing h).trans (by rw [if_pos k]; rfl)⟩
  · rw [if_neg (show ¬ before p (e.outline.marked _).leading = true from k)] at h
    exact ⟨congrArg Outline.tag h, congrArg Outline.state h, congrArg (·.causes.suspect) h,
      congrArg (·.causes.silent) h, (congrArg Outline.trailing h).trans (by rw [if_neg k])⟩

/-- The silence notice closes every OPEN entry (R44). -/
theorem silenceNotice_closes (c : Ctx) (p : Position) {s : State} (d : tagsDistinct s) {e : Entry}
    (m : e.outline ∈ outlines s) (isOpen : e.isOpen = true) :
    ∃ x ∈ (silenceNotice c p s).tracker.sheets, x.outline =
      (e.outline.marked fun f => { f with silent := true }).closedAt (p - bu s.settings.scanLag) := by
  have named : e.tag ∈ tagsWhere Entry.isOpen s := by
    rw [tagsWhere_isOpen]
    exact List.mem_map.mpr ⟨e.outline, List.mem_filter.mpr ⟨m, isOpen⟩, rfl⟩
  have closed := outlines_forceCloseAll c ownCause_silent (p - bu s.settings.scanLag) (tagsWhere Entry.isOpen s) s
    (tagsWhere_nodup _ d)
  have there : (e.outline.marked fun f => { f with silent := true }).closedAt (p - bu s.settings.scanLag) ∈
      outlines (silenceNotice c p s) := by
    unfold silenceNotice
    rw [closed]
    exact List.mem_map.mpr ⟨e.outline, m, if_pos named⟩
  exact List.mem_map.mp there

/-- Tags are distinct in every state of the same outlines. -/
theorem tagsDistinct_congr {s t : State} (h : outlines t = outlines s) (d : tagsDistinct s) : tagsDistinct t := by
  have tags : ∀ u : State, tagsOf u = (outlines u).map (·.tag) := fun u => by
    unfold tagsOf outlines; rw [List.map_map]; rfl
  unfold tagsDistinct
  rw [tags, h, ← tags]; exact d

/-- The silence watch has FIRED (R16). -/
def watchFired (s : State) : State := s.setScan { s.scan with silence := .fired }

theorem watchFired_scan (s : State) : (watchFired s).scan = { s.scan with silence := .fired } := rfl

/-- The silence position while the watch is ARMED and sheets are tracked (R16). -/
theorem silenceReached_armed {w : Watch} {s : State} (t : tracks s) (armed : s.scan.silence = .armed) :
    silenceReached w s = silenceNotice (Ctx.at .scanPort w.pos) w.pos
      (raise (Ctx.at .scanPort w.pos) .scanSilent (watchFired s)) := by
  unfold silenceReached
  refine if_pos ?_
  rcases t with m | m <;> simp [m, armed]

/-- SCAN_SILENT leaves the outlines, so the notice after it closes every OPEN entry (R16, R44). -/
theorem silenceNotice_after_raise (c : Ctx) (p : Position) {u : State} (d : tagsDistinct u) {e : Entry}
    (m : e ∈ u.tracker.sheets) (isOpen : e.isOpen = true) :
    ∃ x ∈ (silenceNotice c p (raise c .scanSilent u)).tracker.sheets, x.outline =
      (e.outline.marked fun f => { f with silent := true }).closedAt (p - bu u.settings.scanLag) := by
  have outlined : outlines (raise c .scanSilent u) = outlines u := (raise_background ..).outlines
  have settings : (raise c .scanSilent u).settings = u.settings :=
    (raise_only ..).settings.resolve_left (Part.unnamed rfl)
  have there : e.outline ∈ outlines (raise c .scanSilent u) := outlined ▸ List.mem_map_of_mem m
  rw [← settings]
  exact silenceNotice_closes c p (tagsDistinct_congr outlined d) there isOpen

/-- SCAN_SILENT and the notice leave the Scan Port and the Blind Span, and SCAN_SILENT stays set. -/
theorem silenceNotice_after_raise_keeps (c : Ctx) (p : Position) (u : State) :
    (silenceNotice c p (raise c .scanSilent u)).scan = u.scan ∧
    (silenceNotice c p (raise c .scanSilent u)).tracker.blind = u.tracker.blind ∧
    flagSet (silenceNotice c p (raise c .scanSilent u)) .scanSilent = true := by
  have notice := silenceNotice_only c p (raise c .scanSilent u)
  have raised := raise_only c .scanSilent u
  exact ⟨(notice.scan.resolve_left (Part.unnamed rfl)).trans (raised.scan.resolve_left (Part.unnamed rfl)),
    (notice.blind.resolve_left (Part.unnamed rfl)).trans (raised.blind.resolve_left (Part.unnamed rfl)),
    (forceCloseAll_calm ..).flags _ (flagSet_raise c .scanSilent u)⟩

/-- Settles O30: the watch is FIRED, SCAN_SILENT is set, and the notice closes the outline of each OPEN entry. -/
theorem silenceClosesOpenSheets : Obligations.SilenceClosesOpenSheets := by
  intro s w t d due armed
  have taken : takeNamed .silence silenceReached s = silenceReached w (dropWatch w s) := takeNamed_due due
  have fired := taken.trans (silenceReached_armed (s := dropWatch w s) t armed)
  obtain ⟨scan, blind, set⟩ := silenceNotice_after_raise_keeps (Ctx.at .scanPort w.pos) w.pos
    (watchFired (dropWatch w s))
  refine ⟨_, congrArg Host.Outcome.next fired, by rw [scan, watchFired_scan], by rw [scan, watchFired_scan]; rfl, set,
    blind, fun e m isOpen => ?_⟩
  obtain ⟨x, mx, closed⟩ := silenceNotice_after_raise (Ctx.at .scanPort w.pos) w.pos
    (u := watchFired (dropWatch w s)) d m isOpen
  exact ⟨x, mx, outline_silenced _ closed⟩

end Sys2Proof.Machine
end

section
/-! The Position Unit through every command: what a taken request can come to, what a belt advance does to the counter,
and the bounds on debt, ratio and residue that every step keeps (R21 to R25). -/
namespace Sys2Proof.Machine
open Sys2Proof.Safety

/-! ### A taken request -/

/-- A request row leaves the start mark alone, or what its request does, with a REPLY offered at most. -/
theorem takeRequest_cases (h : ReqHeader) (act : State → State × Option Answer) (s : State) :
    takeRequest h act s = startMark s ∨ Only raiseParts (act (startMark s)).1 (takeRequest h act s) := by
  unfold takeRequest; dsimp only; split
  · exact .inl rfl
  · split
    · refine .inr ?_
      split
      · split
        · exact offer_only ..
        · exact Only.refl ..
      · exact Only.refl ..
    · exact .inl rfl

/-! ### The belt advance -/

theorem settle_position (s : State) : (settle s).position = s.position :=
  (settle_only s).position.resolve_left (Part.unnamed rfl)

/-- An advance moves the belt counter and nothing else of the Position Unit (R24). -/
theorem beltAdvance_position (whole : Bool) (n : Nat) (s : State) :
    (beltAdvance whole n s).position = { s.position with belt := s.position.belt + BitVec.ofNat 32 n } := by
  have advanced : (advanceBelt n (settle s)).position =
      { s.position with belt := s.position.belt + BitVec.ofNat 32 n } := by
    simp [advanceBelt, settle_position]
  unfold beltAdvance; dsimp only; split
  · exact (settle_position _).trans advanced
  · exact advanced

theorem ofNat_toNat_word (w : Word) : BitVec.ofNat 32 w.toNat = w.setWidth 32 := by simp

/-- In DIVIDE mode a counted pulse below the Pulse Ratio counts up the residue (R22). -/
theorem countPulse_residue {s : State} (m : s.settings.pulseMode = .divide)
    (k : s.position.residue + 1 < s.settings.pulseRatio.toNat) (whole : Bool) :
    countPulse whole s = s.setPosition { s.position with residue := s.position.residue + 1 } := by
  unfold countPulse; rw [m]; exact if_neg (by omega)

/-- In DIVIDE mode the pulse that reaches the Pulse Ratio advances the belt by one (R22). -/
theorem countPulse_divide {s : State} (m : s.settings.pulseMode = .divide)
    (k : s.settings.pulseRatio.toNat ≤ s.position.residue + 1) (whole : Bool) :
    countPulse whole s = beltAdvance whole 1 (s.setPosition { s.position with residue := 0 }) := by
  unfold countPulse; rw [m]; exact if_pos k

/-- In MULTIPLY mode every counted pulse advances the belt by the Pulse Ratio (R23). -/
theorem countPulse_multiply {s : State} (m : s.settings.pulseMode = .multiply) (whole : Bool) :
    countPulse whole s = beltAdvance whole s.settings.pulseRatio.toNat s := by
  unfold countPulse; rw [m]

/-! ### Forward and reverse pulses -/

@[simp] theorem pulseLevels_position (r : Bool) (s : State) : (pulseLevels r s).position = s.position := rfl
@[simp] theorem pulseLevels_settings (r : Bool) (s : State) : (pulseLevels r s).settings = s.settings := rfl

theorem forwardPulse_loading {s : State} (m : s.agent.mode = .loading) (whole : Bool) :
    forwardPulse whole s = pulseLevels false s := if_pos m

theorem forwardPulse_repays {s : State} (m : s.agent.mode ≠ .loading) (d : 0 < s.position.debt) (whole : Bool) :
    forwardPulse whole s =
      (pulseLevels false s).setPosition { s.position with debt := s.position.debt - 1 } :=
  (if_neg m).trans (if_pos d)

theorem forwardPulse_counts {s : State} (m : s.agent.mode ≠ .loading) (d : s.position.debt = 0) (whole : Bool) :
    forwardPulse whole s = countPulse whole (pulseLevels false s) :=
  (if_neg m).trans (if_neg (by simp [pulseLevels, d]))

theorem reversePulse_loading {s : State} (m : s.agent.mode = .loading) : reversePulse s = pulseLevels true s := if_pos m

theorem reversePulse_owes {s : State} (m : s.agent.mode ≠ .loading)
    (d : s.position.debt < s.settings.reverseLimit.toNat) :
    reversePulse s = (pulseLevels true s).setPosition { s.position with debt := s.position.debt + 1 } :=
  (if_neg m).trans (if_pos d)

theorem reversePulse_reverses {s : State} (m : s.agent.mode ≠ .loading)
    (d : s.settings.reverseLimit.toNat ≤ s.position.debt) :
    reversePulse s = reversal (pulseLevels true s) :=
  (if_neg m).trans (if_neg (by simpa [pulseLevels] using d))

/-- A reversal clears the debt and nothing else of the Position Unit (R21). -/
theorem reversal_position (s : State) : (reversal s).position = { s.position with debt := 0 } :=
  ((reversalNotice_only ..).position.resolve_left (Part.unnamed rfl)).trans
    ((raise_only ..).position.resolve_left (Part.unnamed rfl))

/-! ### The bounds on pulses -/

/-- The bounds of the debt (R21) and of ratio and residue (R22, R23, R25) pass from one state to the other. -/
def boundsPass (s t : State) : Prop := (debtKept s → debtKept t) ∧ (conditionerKept s → conditionerKept t)

theorem boundsPass.refl (s : State) : boundsPass s s := ⟨id, id⟩

theorem boundsPass.trans {s t u : State} (h : boundsPass s t) (k : boundsPass t u) : boundsPass s u :=
  ⟨k.1 ∘ h.1, k.2 ∘ h.2⟩

theorem debtKept_of_eq {s t : State} (limit : t.settings.reverseLimit = s.settings.reverseLimit)
    (debt : t.position.debt = s.position.debt) (h : debtKept s) : debtKept t := by
  unfold debtKept; rw [limit, debt]; exact h

theorem conditionerKept_of_eq {s t : State} (mode : t.settings.pulseMode = s.settings.pulseMode)
    (ratio : t.settings.pulseRatio = s.settings.pulseRatio) (residue : t.position.residue = s.position.residue)
    (h : conditionerKept s) : conditionerKept t := by
  unfold conditionerKept; rw [mode, ratio, residue]; exact h

/-- The bounds look at debt and residue, and at the settings. -/
theorem boundsPass_of_eq {s t : State} (settings : t.settings = s.settings)
    (debt : t.position.debt = s.position.debt) (residue : t.position.residue = s.position.residue) : boundsPass s t :=
  ⟨debtKept_of_eq (by rw [settings]) debt, conditionerKept_of_eq (by rw [settings]) (by rw [settings]) residue⟩

theorem Only.boundsPass {W : List Part} {s t : State} (k : Only W s t) (settings : W.contains .settings = false)
    (position : W.contains .position = false) : boundsPass s t := by
  have p := k.position.resolve_left (Part.unnamed position)
  exact boundsPass_of_eq (k.settings.resolve_left (Part.unnamed settings)) (by rw [p]) (by rw [p])

theorem startMark_boundsPass (s : State) : Machine.boundsPass s (startMark s) := (startMark_only s).boundsPass rfl rfl

theorem pulseLevels_boundsPass (r : Bool) (s : State) : boundsPass s (pulseLevels r s) :=
  (pulseLevels_only r s).boundsPass rfl rfl

theorem beltAdvance_boundsPass (whole : Bool) (n : Nat) (s : State) : boundsPass s (beltAdvance whole n s) :=
  boundsPass_of_eq ((beltAdvance_only ..).settings.resolve_left (Part.unnamed rfl))
    (by rw [beltAdvance_position]) (by rw [beltAdvance_position])

/-- The residue of a Pulse Mode and Ratio in bounds may be set to 0. -/
theorem conditionerKept_residue {s t : State} (settings : t.settings = s.settings) (residue : t.position.residue = 0)
    (h : conditionerKept s) : conditionerKept t := by
  unfold conditionerKept at *
  rw [settings, residue]
  split at h
  · exact ⟨by omega, h.2⟩
  · exact ⟨rfl, h.2⟩

theorem countPulse_boundsPass (whole : Bool) (s : State) : boundsPass s (countPulse whole s) := by
  cases m : s.settings.pulseMode with
  | divide =>
    by_cases k : s.settings.pulseRatio.toNat ≤ s.position.residue + 1
    · rw [countPulse_divide m k]
      have reset : boundsPass s (s.setPosition { s.position with residue := 0 }) :=
        ⟨debtKept_of_eq rfl rfl, conditionerKept_residue rfl rfl⟩
      exact reset.trans (beltAdvance_boundsPass ..)
    · rw [countPulse_residue m (by omega)]
      refine ⟨debtKept_of_eq rfl rfl, fun h => ?_⟩
      simp only [conditionerKept, State.setPosition_settings, State.setPosition_position, m] at h ⊢
      exact ⟨by omega, h.2⟩
  | multiply => rw [countPulse_multiply m]; exact beltAdvance_boundsPass ..

theorem forwardPulse_boundsPass (whole : Bool) (s : State) : boundsPass s (forwardPulse whole s) := by
  by_cases m : s.agent.mode = .loading
  · rw [forwardPulse_loading m]; exact pulseLevels_boundsPass ..
  · rcases Nat.eq_zero_or_pos s.position.debt with d | d
    · rw [forwardPulse_counts m d]
      exact (pulseLevels_boundsPass false s).trans (countPulse_boundsPass ..)
    · rw [forwardPulse_repays m d]
      refine ⟨fun h => ?_, conditionerKept_of_eq rfl rfl rfl⟩
      simp only [debtKept, State.setPosition_position, State.setPosition_settings, pulseLevels_settings] at h ⊢
      omega

theorem reversePulse_boundsPass (s : State) : boundsPass s (reversePulse s) := by
  by_cases m : s.agent.mode = .loading
  · rw [reversePulse_loading m]; exact pulseLevels_boundsPass ..
  · by_cases d : s.position.debt < s.settings.reverseLimit.toNat
    · rw [reversePulse_owes m d]
      exact ⟨fun _ => d, conditionerKept_of_eq rfl rfl rfl⟩
    · have settings : (reversePulse s).settings = s.settings :=
        (reversePulse_only s).settings.resolve_left (Part.unnamed rfl)
      have position : (reversePulse s).position = { s.position with debt := 0 } := by
        rw [reversePulse_reverses m (by omega), reversal_position]; rfl
      refine ⟨fun _ => ?_, fun h => ?_⟩
      · unfold debtKept; rw [position]; exact Nat.zero_le _
      · unfold conditionerKept; rw [settings, position]; exact h

/-! ### Writes of the conditioner's settings -/

/-- What every single store keeps, a store of several elements keeps. -/
theorem storeAll_keeps {α : Type} {size : Nat → Nat} {store : Nat → List Word → α → Except Nat α} {P : α → Prop}
    (h : ∀ i vs a b, store i vs a = .ok b → P a → P b) :
    ∀ (n i pos : Nat) (vs : List Word) (a b : α), storeAll size store n i pos vs a = .ok b → P a → P b
  | 0, _, _, _, a, b, k, p => by cases k; exact p
  | n + 1, i, pos, vs, a, b, k, p => by
    unfold storeAll at k
    split at k
    · cases k
    · next c stored => exact storeAll_keeps h n _ _ _ c b k (h _ _ _ _ stored p)

/-- The Pulse Ratio lies in the range of the Pulse Mode (R25). -/
def ratioFits (st : Settings) : Prop :=
  match st.pulseMode with
  | .divide => 1 ≤ st.pulseRatio.toNat ∧ st.pulseRatio.toNat ≤ 4096
  | .multiply => 2 ≤ st.pulseRatio.toNat ∧ st.pulseRatio.toNat ≤ 128

theorem ratioFits_of_kept {s : State} (h : conditionerKept s) : ratioFits s.settings := by
  unfold conditionerKept at h; unfold ratioFits
  cases m : s.settings.pulseMode <;> simp only [m] at h ⊢
  case divide => exact ⟨by omega, h.2⟩
  case multiply => exact h.2

theorem kept_of_ratioFits {s : State} (h : ratioFits s.settings) (residue : s.position.residue = 0) :
    conditionerKept s := by
  unfold ratioFits at h; unfold conditionerKept
  rw [residue]
  cases m : s.settings.pulseMode <;> simp only [m] at h ⊢
  case divide => exact h
  case multiply => exact ⟨trivial, h⟩

/-- A value within bounds is stored as it is. -/
theorem within_ok {pos lo hi : Nat} {w v : Word} (h : within pos lo hi w = .ok v) :
    v = w ∧ lo ≤ w.toNat ∧ w.toNat ≤ hi := by
  unfold within at h; split at h
  · next k => cases h; exact ⟨rfl, k⟩
  · cases h

theorem within_map_ok {α : Type} {pos lo hi : Nat} {w : Word} {f : Word → α} {a : α}
    (h : (within pos lo hi w).map f = .ok a) : a = f w ∧ lo ≤ w.toNat ∧ w.toNat ≤ hi := by
  cases k : within pos lo hi w with
  | error => rw [k] at h; cases h
  | ok v =>
    rw [k] at h; cases h
    obtain ⟨rfl, bounds⟩ := within_ok k
    exact ⟨rfl, bounds⟩

/-- What a stored Group S value leaves of the conditioner's settings. -/
theorem SettingS.store_conditioner {o : SettingS} {i : Nat} {w : Word} {st st' : Settings}
    (h : o.store i w st = .ok st') :
    (o ≠ .reverseLimit → st'.reverseLimit = st.reverseLimit) ∧
    (o ≠ .pulseMode → o ≠ .pulseRatio → st'.pulseMode = st.pulseMode ∧ st'.pulseRatio = st.pulseRatio) := by
  cases o
  case pulseMode =>
    refine ⟨fun _ => ?_, fun n => absurd rfl n⟩
    dsimp only [SettingS.store] at h
    split at h
    · cases h; rfl
    · split at h
      · rw [(within_map_ok h).1]
      · cases h
  case pulseRatio =>
    refine ⟨fun _ => ?_, fun _ n => absurd rfl n⟩
    dsimp only [SettingS.store] at h
    split at h <;> rw [(within_map_ok h).1]
  case reverseLimit => exact ⟨fun n => absurd rfl n, fun _ _ => by rw [(within_map_ok h).1]; exact ⟨rfl, rfl⟩⟩
  case scanLag | decisionDistance | gateDistance | routeLead | markerDistance | divertDistance | retireDistance =>
    cases h; exact ⟨fun _ => rfl, fun _ _ => ⟨rfl, rfl⟩⟩
  all_goals
    rw [(within_map_ok h).1]; exact ⟨fun _ => rfl, fun _ _ => ⟨rfl, rfl⟩⟩

/-- No Write takes the Pulse Ratio out of the range of the Pulse Mode (R25). -/
theorem SettingS.store_ratioFits {o : SettingS} {i : Nat} {w : Word} {st st' : Settings}
    (h : o.store i w st = .ok st') (r : ratioFits st) : ratioFits st' := by
  by_cases mode : o = .pulseMode
  · subst mode
    dsimp only [SettingS.store] at h
    split at h
    · cases h
      unfold ratioFits at r ⊢; dsimp only
      split at r <;> omega
    · split at h
      · obtain ⟨rfl, bounds⟩ := within_map_ok h; exact bounds
      · cases h
  · by_cases ratio : o = .pulseRatio
    · subst ratio
      dsimp only [SettingS.store] at h
      split at h <;> (next m => obtain ⟨rfl, bounds⟩ := within_map_ok h; unfold ratioFits; dsimp only; rw [m]; exact bounds)
    · obtain ⟨keepMode, keepRatio⟩ := (SettingS.store_conditioner h).2 mode ratio
      unfold ratioFits; rw [keepMode, keepRatio]; exact r

theorem storeS_store {o : SettingS} {i : Nat} {vs : List Word} {st st' : Settings} (h : storeS o i vs st = .ok st') :
    ∃ w, o.store i w st = .ok st' := by
  unfold storeS at h; split at h
  · exact ⟨_, h⟩
  · cases h

theorem SettingL.store_conditioner {o : SettingL} {i : Nat} {w : Word} {st st' : Settings}
    (h : o.store i w st = .ok st') :
    st'.reverseLimit = st.reverseLimit ∧ st'.pulseMode = st.pulseMode ∧ st'.pulseRatio = st.pulseRatio := by
  have kept : ∀ {f : Bool → Settings}, (onOff 0 w).map f = .ok st' → ∃ b, st' = f b := fun {f} k => by
    cases e : onOff 0 w with
    | error => rw [e] at k; cases k
    | ok b => rw [e] at k; cases k; exact ⟨b, rfl⟩
  cases o <;> (obtain ⟨b, rfl⟩ := kept h; exact ⟨rfl, rfl, rfl⟩)

/-- The Position Unit after a Write of a Group S setting (R25). -/
theorem settingStored_position (o : SettingS) (s : State) :
    (settingStored o s).position.belt = s.position.belt ∧
    (settingStored o s).position.debt =
      (if o = .reverseLimit then min s.position.debt s.settings.reverseLimit.toNat else s.position.debt) ∧
    (settingStored o s).position.residue =
      (if o = .pulseMode ∨ o = .pulseRatio then 0 else s.position.residue) := by
  cases o <;> exact ⟨rfl, rfl, rfl⟩

theorem settingStored_settings (o : SettingS) (s : State) : (settingStored o s).settings = s.settings :=
  (settingStored_only o s).settings.resolve_left (Part.unnamed rfl)

/-- A stored Group S value keeps debt, ratio and residue in bounds (R25). -/
theorem settingStored_boundsPass {o : SettingS} {n i : Nat} {vs : List Word} {s : State} {st : Settings}
    (h : storeAll (fun _ => 1) (storeS o) n i 0 vs s.settings = .ok st) :
    boundsPass s (settingStored o (s.setSettings st)) := by
  have keep : ∀ {P : Settings → Prop}, (∀ i w a b, o.store i w a = .ok b → P a → P b) → P s.settings → P st :=
    fun k => storeAll_keeps (fun i vs a b e => (storeS_store e).elim fun w e => k i w a b e) n i 0 vs _ _ h
  obtain ⟨-, debt, residue⟩ := settingStored_position o (s.setSettings st)
  refine ⟨fun k => ?_, fun k => ?_⟩
  · unfold debtKept; rw [settingStored_settings, debt]
    split
    · exact Nat.min_le_right ..
    · next other =>
      have limit : st.reverseLimit = s.settings.reverseLimit :=
        keep (P := fun a => a.reverseLimit = s.settings.reverseLimit)
          (fun _ _ _ _ e p => ((SettingS.store_conditioner e).1 other).trans p) rfl
      rw [State.setSettings_settings, limit]; exact k
  · by_cases reset : o = .pulseMode ∨ o = .pulseRatio
    · rw [if_pos reset] at residue
      refine kept_of_ratioFits ?_ residue
      rw [settingStored_settings]
      exact keep (fun _ _ _ _ e => SettingS.store_ratioFits e) (ratioFits_of_kept k)
    · rw [if_neg reset] at residue
      obtain ⟨other, other'⟩ := not_or.mp reset
      obtain ⟨mode, ratio⟩ : st.pulseMode = s.settings.pulseMode ∧ st.pulseRatio = s.settings.pulseRatio :=
        keep (P := fun a => a.pulseMode = s.settings.pulseMode ∧ a.pulseRatio = s.settings.pulseRatio)
          (fun _ _ _ _ e p => have k := (SettingS.store_conditioner e).2 other other'
            ⟨k.1.trans p.1, k.2.trans p.2⟩) ⟨rfl, rfl⟩
      refine conditionerKept_of_eq (s := s) ?_ ?_ residue k
      · rw [settingStored_settings]; exact mode
      · rw [settingStored_settings]; exact ratio

theorem writeRequest_boundsPass (o : Byte) (i : Word) (vs : List Word) (s : State) :
    boundsPass s (writeRequest o i vs s).1 := by
  unfold writeRequest; split
  · exact .refl s
  · exact .refl s
  · split
    · exact .refl s
    · split
      · unfold writeStandby; split
        · exact .refl s
        · split
          · exact .refl s
          · next stored => exact settingStored_boundsPass stored
      · next x =>
        unfold writeLive; split
        · exact .refl s
        · next st stored =>
          have same := storeAll_keeps (P := fun a => a.reverseLimit = s.settings.reverseLimit ∧
              a.pulseMode = s.settings.pulseMode ∧ a.pulseRatio = s.settings.pulseRatio)
            (fun i vs a b e p => by
              unfold storeL at e; split at e
              · obtain ⟨l, m, r⟩ := SettingL.store_conditioner e
                exact ⟨l.trans p.1, m.trans p.2.1, r.trans p.2.2⟩
              · cases e) _ _ _ _ _ _ stored ⟨rfl, rfl, rfl⟩
          obtain ⟨limit, mode, ratio⟩ := same
          exact ⟨debtKept_of_eq limit rfl, conditionerKept_of_eq mode ratio rfl⟩
      · exact (writeTableObject_only ..).boundsPass rfl rfl
      · exact .refl s

/-! ### Every step -/

theorem warmReset_boundsPass (r : StartRecord) (s : State) : boundsPass s (warmReset r s) :=
  ⟨fun _ => Nat.zero_le _, conditionerKept_residue rfl rfl⟩

theorem modeRequest_boundsPass (t : Byte) (s : State) : boundsPass s (modeRequest t s).1 := by
  unfold modeRequest; split
  · exact (modeStreaming_only s).boundsPass rfl rfl
  · exact (modeDrain_only s).boundsPass rfl rfl
  · exact (modeFlush_only s).boundsPass rfl rfl
  · exact .refl s

theorem actOnRequest_boundsPass (r : ReqHeader) (p : Pins) (q : Option Request) (s : State) :
    boundsPass s (actOnRequest r p q s).1 := by
  match q with
  | none | some .ident => exact .refl s
  | some (.read o sel i n) => exact (readRequest_only o sel i n s).boundsPass rfl rfl
  | some (.write o i vs) => exact writeRequest_boundsPass o i vs s
  | some .commit => exact (commitRequest_only s).boundsPass rfl rfl
  | some .copy => exact (copyRequest_only r s).boundsPass rfl rfl
  | some (.mode t) => exact modeRequest_boundsPass t s
  | some (.clear ch codes) => exact (clearRequest_only ch codes s).boundsPass rfl rfl
  | some (.test a l n) => exact (testRequest_only a l n p s).boundsPass rfl rfl
  | some .restart => exact warmReset_boundsPass _ s

theorem takeRequest_boundsPass (h : ReqHeader) {act : State → State × Option Answer}
    (k : ∀ s, boundsPass s (act s).1) (s : State) : boundsPass s (takeRequest h act s) := by
  rcases takeRequest_cases h act s with e | e
  · rw [e]; exact startMark_boundsPass s
  · exact ((startMark_boundsPass s).trans (k _)).trans (e.boundsPass rfl rfl)

theorem takeRecord_boundsPass (r : ScanRecord) (s : State) : boundsPass s (takeRecord r s) := by
  have traffic : ∀ c t, c.wf = true → exec c s = .next t → (changes c).contains .settings = false →
      (changes c).contains .position = false → boundsPass s t := fun _ _ wf e a b => (exec_only wf e).boundsPass a b
  cases r with
  | frame d n => exact traffic (.frame d n) _ rfl rfl rfl rfl
  | openSheet d f l o => exact traffic (.openSheet d f l o) _ rfl rfl rfl rfl
  | feature d l k a w o => exact traffic (.feature d l k a w o) _ rfl rfl rfl rfl
  | moist d l r t => exact traffic (.moist d l r t) _ rfl rfl rfl rfl
  | closeSheet d f l o => exact traffic (.closeSheet d f l o) _ rfl rfl rfl rfl
  | request h kind fields => exact takeRequest_boundsPass h (actOnRequest_boundsPass h _ _) s

theorem lineSymbol_boundsPass (x : LineSymbol) (s : State) : boundsPass s (lineSymbol x s) := by
  have framed : ∀ f s, boundsPass s (setFraming f s) := fun f s => (setFraming_only f s).boundsPass rfl rfl
  have unframed : boundsPass s (endFraming s) := (endFraming_only s).boundsPass rfl rfl
  unfold lineSymbol; split
  · exact (startMark_boundsPass s).trans (framed ..)
  · exact .refl s
  · exact framed ..
  · exact .refl s
  · exact unframed
  · unfold judgeRecord; dsimp only; split
    · exact unframed
    · split
      · exact unframed.trans (takeRecord_boundsPass ..)
      · exact unframed.trans ((rejectRecord_only _).boundsPass rfl rfl)

theorem takeLine_boundsPass : ∀ (line : List LineSymbol) (s : State), boundsPass s (takeLine line s)
  | [], s => .refl s
  | x :: line, s => (lineSymbol_boundsPass x s).trans (takeLine_boundsPass line _)

/-- A command that is no request keeps the bounds: of those only pulses and resets touch the Position Unit. -/
theorem event_boundsPass {c : Instr} {s t : State} (hh : header c = none) (h : exec c s = .next t) :
    boundsPass s t := by
  cases c <;> cases hh
  case rejectedRecord => cases h; exact takeLine_boundsPass ..
  case forwardPulse => cases h; exact forwardPulse_boundsPass ..
  case reversePulse => cases h; exact reversePulse_boundsPass ..
  case powerOn =>
    cases h
    exact ⟨fun _ => Nat.zero_le _, fun _ => show conditionerKept State.reset by
      constructor <;> simp [State.reset, Settings.powerOn]⟩
  case pinReset => cases h; unfold pinReset; split <;> exact warmReset_boundsPass ..
  all_goals exact (exec_only rfl h).boundsPass rfl rfl

/-- Every command, well-formed or not, keeps debt, ratio and residue in bounds. -/
theorem exec_boundsPass {c : Instr} {s t : State} (h : exec c s = .next t) : boundsPass s t := by
  cases hh : header c with
  | some r =>
    rw [exec_request hh] at h
    cases h
    exact takeRequest_boundsPass r (actOnRequest_boundsPass r _ _) s
  | none => exact event_boundsPass hh h

/-! ### The line test -/

/-- A line test that is set in STANDBY only survives whatever leaves the mode and the line test alone. -/
theorem Only.testKept {W : List Part} {s t : State} (k : Only W s t) (mode : W.contains .mode = false)
    (test : W.contains .lineTest = false) (h : testKept s) : testKept t := by
  unfold Safety.testKept
  rw [k.mode.resolve_left (Part.unnamed mode), k.lineTest.resolve_left (Part.unnamed test)]
  exact h

theorem testKept_standby {s : State} (m : s.agent.mode = .standby) : testKept s := fun _ => m

/-- While sheets are tracked no line test stands (R172). -/
theorem testKept_tracks {s : State} (m : tracks s ∨ (s.agent.mode = .standby ∧ s.agent.lineTest = none))
    (h : testKept s) : s.agent.lineTest = none := by
  rcases m with m | m
  · cases k : s.agent.lineTest with
    | none => rfl
    | some x =>
      have standby := h (by rw [k]; rfl)
      rcases m with m | m <;> (rw [m] at standby; cases standby)
  · exact m.2

theorem testKept_none {s : State} (n : s.agent.lineTest = none) : testKept s := fun h => by rw [n] at h; cases h

theorem stable_testKept : Stable testKept where
  other k := k.testKept rfl rfl
  modify tag f s keeps := (modifyEntry_only tag f s keeps).testKept rfl rfl
  offered r s := (offer_only r s).testKept rfl rfl
  begun s := (tryBegin_only s).testKept rfl rfl
  withdrawn tag s := (withdraw_only tag s).testKept rfl rfl
  fired tag w s := (firePoint_only tag w s).testKept rfl rfl
  completed b s := (completeSending_only b s).testKept rfl rfl
  pinsKept p s _ := (setPins_only s p).testKept rfl rfl
  pinsRead p s := (sampleLevels_only p s).testKept rfl rfl
  bankReleased c s := (releaseBank_only c s).testKept rfl rfl
  holdEnded c tag s := (endHold_only c tag s).testKept rfl rfl
  committed c s := (commitEffect_only c s).testKept rfl rfl
  unlisted tag s := (unlist_only tag s).testKept rfl rfl
  listed tag s _ := (setEvaluator_only s _).testKept rfl rfl
  started s := (startEvaluation_only s).testKept rfl rfl
  idled s := (evaluatorIdle_only s).testKept rfl rfl
  stampSet v s _ := (setMarker_only s v).testKept rfl rfl
  spanSet b s _ := (setBlind_only s _).testKept rfl rfl
  intervalSet v s _ := (setInterval_only s v).testKept rfl rfl
  spanCleared s h :=
    (intervalEnds_only _).testKept rfl rfl ((setBlind_only s none).testKept rfl rfl h)
  moded m s _ from_ h := testKept_none (s := setMode m s) (testKept_tracks (s := s) from_ h)
  standby _ _ _ _ := testKept_standby rfl
  testEnded _ _ := testKept_none rfl
  testHeld _ _ m _ := testKept_standby m
  opened c p f l s _ _ := (openEntry_only c p f l s).testKept rfl rfl
  retired c e s _ h := by
    refine (abandonEvaluation_only _ _).testKept rfl rfl ?_
    have removed : testKept (markerRetired e.tag (routeRetired c e (removeEntry e.tag s))) :=
      (markerRetired_only ..).testKept rfl rfl ((routeRetired_only ..).testKept rfl rfl
        ((removeEntry_only ..).testKept rfl rfl h))
    dsimp only; split
    · exact (releaseHold_only ..).testKept rfl rfl removed
    · exact removed
  flushed _ _ _ := testKept_standby rfl

theorem resetStable_testKept : ResetStable testKept where
  reset _ _ _ := testKept_none rfl
  power _ _ := testKept_none rfl

/-- LOADING ends in STANDBY (R183). -/
theorem endLoading_testKept (o : Option OptionBlock) (p : Pins) {s : State} (h : testKept s) :
    testKept (endLoading o p s) := by
  unfold endLoading; split
  · exact (announce_only ..).testKept rfl rfl (testKept_standby rfl)
  · exact h

/-- Settles O11: every command passes the bounds of debt, ratio and residue on, and a line test survives only where the
mode is STANDBY. -/
theorem stepKeepsPulsesAndLineTest : Obligations.StepKeepsPulsesAndLineTest := by
  intro s t h
  have bounds : boundsPass s t := by
    unfold step at h; split at h
    · cases h; exact .refl s
    · next c rest _ =>
      have taken : boundsPass s (s.setPending rest) := boundsPass_of_eq rfl rfl rfl
      exact taken.trans (exec_boundsPass h)
  exact ⟨bounds.1, bounds.2, stable_testKept.step resetStable_testKept h fun o p _ _ => endLoading_testKept o p⟩

end Sys2Proof.Machine
end

section
/-! What moves the belt counter, the pulse rows case by case, and what each command leaves of the settings, the mode and
the queue of sheets (R19 to R24, R29, R33, R34). -/
namespace Sys2Proof.Machine
open Sys2Proof.Safety

/-! ### Requests and the belt counter -/

theorem writeRequest_belt (o : Byte) (i : Word) (vs : List Word) (s : State) :
    (writeRequest o i vs s).1.position.belt = s.position.belt := by
  unfold writeRequest; split
  · rfl
  · rfl
  · split
    · rfl
    · split
      · unfold writeStandby; split
        · rfl
        · split
          · rfl
          · exact (settingStored_position ..).1
      · rw [(writeLive_only ..).position.resolve_left (Part.unnamed rfl)]
      · rw [(writeTableObject_only ..).position.resolve_left (Part.unnamed rfl)]
      · rfl

theorem modeRequest_position (t : Byte) (s : State) : (modeRequest t s).1.position = s.position := by
  unfold modeRequest; split
  · exact (modeStreaming_only s).position.resolve_left (Part.unnamed rfl)
  · exact (modeDrain_only s).position.resolve_left (Part.unnamed rfl)
  · exact (modeFlush_only s).position.resolve_left (Part.unnamed rfl)
  · rfl

/-- A request other than a Restart leaves the belt counter, and a Restart leaves the Position Unit at 0. -/
theorem actOnRequest_belt (r : ReqHeader) (p : Pins) (q : Option Request) (s : State) :
    (actOnRequest r p q s).1.position.belt = s.position.belt ∨
    (q = some .restart ∧ (actOnRequest r p q s).1.position = ⟨0, 0, 0⟩) := by
  match q with
  | none | some .ident => exact .inl rfl
  | some (.read o sel i n) =>
    exact .inl (congrArg _ ((readRequest_only o sel i n s).position.resolve_left (Part.unnamed rfl)))
  | some (.write o i vs) => exact .inl (writeRequest_belt o i vs s)
  | some .commit => exact .inl (congrArg _ ((commitRequest_only s).position.resolve_left (Part.unnamed rfl)))
  | some .copy => exact .inl (congrArg _ ((copyRequest_only r s).position.resolve_left (Part.unnamed rfl)))
  | some (.mode t) => exact .inl (congrArg _ (modeRequest_position t s))
  | some (.clear ch codes) =>
    exact .inl (congrArg _ ((clearRequest_only ch codes s).position.resolve_left (Part.unnamed rfl)))
  | some (.test a l n) => exact .inl (congrArg _ ((testRequest_only a l n p s).position.resolve_left (Part.unnamed rfl)))
  | some .restart => exact .inr ⟨rfl, rfl⟩

/-- Of the well-formed commands only RESTART spells a Restart. -/
theorem isReset_of_requestOf {c : Instr} (wf : c.wf = true) (h : requestOf c = some .restart) : isReset c = true := by
  cases c
  case restart => rfl
  case unknownRequest => rw [requestOf_unknown wf] at h; cases h
  all_goals cases h

theorem startMark_position (s : State) : (startMark s).position = s.position :=
  (startMark_only s).position.resolve_left (Part.unnamed rfl)

theorem belt_of_request {c : Instr} {r : ReqHeader} {s t : State} (hh : header c = some r) (wf : c.wf = true)
    (h : exec c s = .next t) : t.position.belt = s.position.belt ∨ (isReset c = true ∧ t.position = ⟨0, 0, 0⟩) := by
  rw [exec_request hh] at h
  cases h
  rcases takeRequest_cases r (actOnRequest r (levelsOf s.pins c) (requestOf c)) s with k | k
  · rw [k, startMark_position]; exact .inl rfl
  · rw [k.position.resolve_left (Part.unnamed rfl)]
    rcases actOnRequest_belt r (levelsOf s.pins c) (requestOf c) (startMark s) with e | ⟨q, e⟩
    · rw [e, startMark_position]; exact .inl rfl
    · exact .inr ⟨isReset_of_requestOf wf q, e⟩

/-! ### Pulses and the belt counter -/

/-- How far a counted pulse that advances the belt moves it (R22, R23). -/
theorem countPulse_belt (whole : Bool) (s : State) :
    (countPulse whole s).position.belt = s.position.belt ∨
    (countPulse whole s).position.belt = s.position.belt +
      (match s.settings.pulseMode with
        | .divide => 1
        | .multiply => s.settings.pulseRatio.setWidth 32) := by
  cases m : s.settings.pulseMode with
  | divide =>
    by_cases k : s.settings.pulseRatio.toNat ≤ s.position.residue + 1
    · rw [countPulse_divide m k, beltAdvance_position]; exact .inr rfl
    · rw [countPulse_residue m (by omega)]; exact .inl rfl
  | multiply =>
    rw [countPulse_multiply m, beltAdvance_position, ofNat_toNat_word]; exact .inr rfl

theorem forwardPulse_belt (whole : Bool) (s : State) :
    (forwardPulse whole s).position.belt = s.position.belt ∨
    (s.agent.mode ≠ .loading ∧ s.position.debt = 0 ∧
      (forwardPulse whole s).position.belt = s.position.belt +
        (match s.settings.pulseMode with
          | .divide => 1
          | .multiply => s.settings.pulseRatio.setWidth 32)) := by
  by_cases m : s.agent.mode = .loading
  · rw [forwardPulse_loading m]; exact .inl rfl
  · rcases Nat.eq_zero_or_pos s.position.debt with d | d
    · rw [forwardPulse_counts m d]
      exact (countPulse_belt whole (pulseLevels false s)).imp id fun k => ⟨m, d, k⟩
    · rw [forwardPulse_repays m d]; exact .inl rfl

theorem reversePulse_belt (s : State) : (reversePulse s).position.belt = s.position.belt := by
  by_cases m : s.agent.mode = .loading
  · rw [reversePulse_loading m]; rfl
  · by_cases d : s.position.debt < s.settings.reverseLimit.toNat
    · rw [reversePulse_owes m d]; rfl
    · rw [reversePulse_reverses m (by omega), reversal_position]; rfl

theorem pinReset_position (s : State) : (pinReset s).position = ⟨0, 0, 0⟩ := by
  unfold pinReset; split <;> rfl

theorem belt_of_event {c : Instr} {s t : State} (hh : header c = none) (wf : c.wf = true) (h : exec c s = .next t) :
    t.position.belt = s.position.belt ∨
    (∃ whole, c = .forwardPulse whole ∧ s.agent.mode ≠ .loading ∧ s.position.debt = 0 ∧
      t.position.belt = s.position.belt +
        (match s.settings.pulseMode with
          | .divide => 1
          | .multiply => s.settings.pulseRatio.setWidth 32)) ∨
    (isReset c = true ∧ t.position = ⟨0, 0, 0⟩) := by
  cases c <;> cases hh
  case forwardPulse whole =>
    cases h
    exact (forwardPulse_belt whole s).imp id fun ⟨m, d, k⟩ => .inl ⟨whole, rfl, m, d, k⟩
  case reversePulse => cases h; exact .inl (reversePulse_belt s)
  case powerOn => cases h; exact .inr (.inr ⟨rfl, rfl⟩)
  case pinReset => cases h; exact .inr (.inr ⟨rfl, pinReset_position s⟩)
  all_goals exact .inl (congrArg _ ((exec_only wf h).position.resolve_left (Part.unnamed rfl)))

/-- Settles O3: of the commands that are no request only pulses and resets touch the Position Unit, and of the requests
only a Write, which leaves the counter, and a Restart. -/
theorem beltChangesOnlyByAdvance : Obligations.BeltChangesOnlyByAdvance := by
  refine ⟨fun c s t wf h => ?_, fun s => ⟨_, rfl, rfl⟩, fun s => ⟨_, rfl, pinReset_position s⟩, fun h s k => ?_,
    fun s t c m k h => ?_, fun s whole => ⟨_, rfl, ?_⟩, fun s => ⟨_, rfl, ?_⟩⟩
  · cases hh : header c with
    | some r => exact (belt_of_request hh wf h).imp id .inr
    | none => exact belt_of_event hh wf h
  · exact ⟨_, rfl, by rw [takeRequest_silent (u := (restartRequest h s).1) k rfl]; rfl⟩
  · rcases k with rfl | ⟨whole, rfl⟩
    · cases h; rw [reversePulse_loading m]; rfl
    · cases h; rw [forwardPulse_loading m]; rfl
  · by_cases m : s.agent.mode = .loading
    · rw [forwardPulse_loading m]; rfl
    · rcases Nat.eq_zero_or_pos s.position.debt with d | d
      · rw [forwardPulse_counts m d, (countPulse_only ..).pins.resolve_left (Part.unnamed rfl)]; rfl
      · rw [forwardPulse_repays m d]; rfl
  · by_cases m : s.agent.mode = .loading
    · rw [reversePulse_loading m]; rfl
    · by_cases d : s.position.debt < s.settings.reverseLimit.toNat
      · rw [reversePulse_owes m d]; rfl
      · rw [reversePulse_reverses m (by omega)]
        exact ((reversalNotice_only ..).pins.resolve_left (Part.unnamed rfl)).trans
          ((raise_only ..).pins.resolve_left (Part.unnamed rfl))

/-- Settles O41: each pulse row in the one branch its premises leave. -/
theorem pulsesRepayAndAdvance : Obligations.PulsesRepayAndAdvance := by
  refine ⟨fun s m => ⟨fun d => ⟨_, rfl, ?_⟩, fun d whole => ⟨_, rfl, ?_⟩⟩, fun s whole m d => ⟨_, rfl, ?_⟩⟩
  · rw [reversePulse_owes m d]; exact ⟨rfl, rfl, rfl, rfl⟩
  · rw [forwardPulse_repays m d]; exact ⟨rfl, rfl, rfl, rfl⟩
  · rw [forwardPulse_counts m d]
    refine ⟨fun mode k => ?_, fun mode k => ?_, fun mode => ?_⟩
    · rw [countPulse_residue (s := pulseLevels false s) mode k]; exact ⟨rfl, rfl⟩
    · rw [countPulse_divide (s := pulseLevels false s) mode k.ge, beltAdvance_position]; rfl
    · rw [countPulse_multiply (s := pulseLevels false s) mode, beltAdvance_position, ofNat_toNat_word]; rfl

/-! ### What each command leaves -/

/-- Settles O4: `changes` names the settings, the inputs, the Option Block contents, the mode, the Option Block values,
the tags and the tag counter only for the commands that are excepted. -/
theorem registersChangeOnlyAsStated : Obligations.RegistersChangeOnlyAsStated := by
  intro c s t wf h
  have k := exec_only wf h
  refine ⟨?_, ?_, ?_, ?_, ?_, ?_, ?_⟩
  · cases c
    case write | writePulseMode | writePulseRatio | writeReverseLimit | writeAlertMask | powerOn => trivial
    all_goals exact k.settings.resolve_left (Part.unnamed rfl)
  · cases c
    case loadingEnd => trivial
    all_goals exact k.optionBlock.resolve_left (Part.unnamed rfl)
  · cases c
    case forwardPulse | reversePulse | readyRise | sendingCompletion | testHold | testRelease | loadingEnd => trivial
    all_goals exact k.pins.resolve_left (Part.unnamed rfl)
  · cases c
    case modeStreaming | modeStandbyDrain | modeStandbyFlush | retirement | clearing | drainEndNotice | forwardPulse |
      powerOn | pinReset | restart | loadingEnd => trivial
    all_goals exact k.mode.resolve_left (Part.unnamed rfl)
  · cases c
    case powerOn | loadingEnd => trivial
    all_goals exact k.options.resolve_left (Part.unnamed rfl)
  · cases c
    case openSheet | retirement | forwardPulse | modeStandbyFlush | powerOn | pinReset | restart => trivial
    all_goals exact k.tags.resolve_left (Part.unnamed rfl)
  · cases c
    case openSheet | powerOn | pinReset | restart => trivial
    all_goals exact k.tagCounter.resolve_left (Part.unnamed rfl)

end Sys2Proof.Machine
end

section
/-! The watched positions of one advance (R26 to R28): which are due, in what order a watcher takes them, and how a pulse
that takes them all runs through them. -/
namespace Sys2Proof.Machine
open Sys2Proof.Safety

/-! ### The position a watcher takes next -/

/-- Whether a watcher has a position to take. -/
def Watch.dueFor (watcher : Watcher) (x : Watch) : Prop := x.due = true ∧ x.kind.watcher = watcher

/-- Of the positions of a list, the one a watcher takes is the one furthest behind the belt, and of equal ones the
first (R27). -/
def firstFurthest (s : State) (watcher : Watcher) (l : List Watch) (w : Watch) : Prop :=
  w.dueFor watcher ∧ ∃ before after, l = before ++ w :: after ∧
    (∀ x ∈ before, x.dueFor watcher → behind s x < behind s w) ∧
    ∀ x ∈ after, x.dueFor watcher → behind s x ≤ behind s w

/-- The choice between the best position so far and one more. -/
def betterDue (s : State) (watcher : Watcher) (best : Option Watch) (x : Watch) : Option Watch :=
  if x.due && x.kind.watcher = watcher then
    match best with
    | none => some x
    | some b => if behind s b < behind s x then some x else some b
  else best

theorem nextDue_eq (s : State) (watcher : Watcher) : nextDue s watcher = s.watches.foldl (betterDue s watcher) none := rfl

theorem betterDue_skip {s : State} {watcher : Watcher} {x : Watch} (h : ¬ x.dueFor watcher) (best : Option Watch) :
    betterDue s watcher best x = best :=
  if_neg (by simpa [Watch.dueFor] using h)

theorem betterDue_due {s : State} {watcher : Watcher} {x : Watch} (h : x.dueFor watcher) (best : Option Watch) :
    betterDue s watcher best x =
      match best with
      | none => some x
      | some b => if behind s b < behind s x then some x else some b :=
  if_pos (by simpa [Watch.dueFor] using h)

/-- A list gives its first furthest position, and none only where no position of it is due for the watcher. -/
theorem foldl_betterDue (s : State) (watcher : Watcher) (l : List Watch) :
    (∀ w, l.foldl (betterDue s watcher) none = some w → firstFurthest s watcher l w) ∧
    (l.foldl (betterDue s watcher) none = none → ∀ x ∈ l, ¬ x.dueFor watcher) := by
  induction l using List.reverseRecOn with
  | nil => exact ⟨fun w h => (by cases h), fun _ _ m => (by cases m)⟩
  | append_singleton l x ih =>
    obtain ⟨found, nothing⟩ := ih
    rw [List.foldl_append, List.foldl_cons, List.foldl_nil]
    by_cases due : x.dueFor watcher
    · rw [betterDue_due due]
      cases best : l.foldl (betterDue s watcher) none with
      | none =>
        refine ⟨fun w h => ?_, fun h => (by cases h)⟩
        cases h
        exact ⟨due, l, [], rfl, fun y m d => absurd d (nothing best y m), fun _ m => (by cases m)⟩
      | some b =>
        obtain ⟨dueB, l₁, l₂, split, less, atMost⟩ := found b best
        dsimp only
        split_ifs with further
        · refine ⟨fun w h => ?_, fun h => (by cases h)⟩
          cases h
          refine ⟨due, l, [], rfl, fun y m d => ?_, fun _ m => (by cases m)⟩
          rw [split] at m
          rcases List.mem_append.mp m with m | m
          · exact (less y m d).trans further
          · rcases List.mem_cons.mp m with rfl | m
            · exact further
            · exact (atMost y m d).trans_lt further
        · refine ⟨fun w h => ?_, fun h => (by cases h)⟩
          cases h
          refine ⟨dueB, l₁, l₂ ++ [x], by rw [split]; simp, less, fun y m d => ?_⟩
          rcases List.mem_append.mp m with m | m
          · exact atMost y m d
          · obtain rfl := List.mem_singleton.mp m
            omega
    · rw [betterDue_skip due]
      refine ⟨fun w h => ?_, fun h y m => ?_⟩
      · obtain ⟨dueW, l₁, l₂, split, less, atMost⟩ := found w h
        refine ⟨dueW, l₁, l₂ ++ [x], by rw [split]; simp, less, fun y m d => ?_⟩
        rcases List.mem_append.mp m with m | m
        · exact atMost y m d
        · obtain rfl := List.mem_singleton.mp m
          exact absurd d due
      · rcases List.mem_append.mp m with m | m
        · exact nothing h y m
        · obtain rfl := List.mem_singleton.mp m
          exact due

/-- What a watcher takes next (R27). -/
theorem nextDue_firstFurthest {s : State} {watcher : Watcher} {w : Watch} (h : nextDue s watcher = some w) :
    firstFurthest s watcher s.watches w := by
  rw [nextDue_eq] at h
  exact (foldl_betterDue s watcher s.watches).1 w h

theorem nextDue_none {s : State} {watcher : Watcher} (h : nextDue s watcher = none) {x : Watch} (m : x ∈ s.watches)
    (own : x.kind.watcher = watcher) : x.due = false := by
  rw [nextDue_eq] at h
  have no := (foldl_betterDue s watcher s.watches).2 h x m
  exact Bool.eq_false_iff.mpr fun due => no ⟨due, own⟩

/-- With no position due no watcher has one to take. -/
theorem nextDue_quiet {s : State} (h : ∀ w ∈ s.watches, w.due = false) (watcher : Watcher) :
    nextDue s watcher = none := by
  cases k : nextDue s watcher with
  | none => rfl
  | some w =>
    obtain ⟨⟨due, -⟩, l, r, split, -, -⟩ := nextDue_firstFurthest k
    have m : w ∈ s.watches := by rw [split]; simp
    rw [h w m] at due; cases due

/-- A command of a position that is not due next changes nothing (log 5). -/
theorem takeNamed_not_due {kind : WatchKind} {s : State} (h : ∀ w, ¬ comesDue s kind w)
    (act : Watch → State → State) : takeNamed kind act s = s := by
  unfold takeNamed
  cases k : nextDue s kind.watcher with
  | none => rfl
  | some w => exact if_neg fun same => h w ⟨k, same⟩

/-! ### Taking several -/

theorem mem_allWatchers (w : Watcher) : w ∈ allWatchers := by cases w <;> decide

theorem mem_dueWatchers {s : State} {w : Watcher} : w ∈ dueWatchers s ↔ (nextDue s w).isSome = true := by
  simp [dueWatchers, mem_allWatchers]

/-- Nothing is left to take exactly when no watcher has a position due. -/
theorem takeAny_none {s : State} : takeAny s = none ↔ ∀ w, nextDue s w = none := by
  have empty : dueWatchers s = [] ↔ ∀ w, nextDue s w = none := by
    rw [List.eq_nil_iff_forall_not_mem]
    simp only [mem_dueWatchers, Option.not_isSome_iff_eq_none]
  rw [← empty]
  unfold takeAny
  split
  · next h => simp [h]
  · next h => simp [h]
  · next h => simp [h]

/-- One more taking is that of a watcher that has a position, drawing a free value where there are several (log 7). -/
theorem takeAny_some {s t : State} (h : takeAny s = some t) :
    ∃ w, (nextDue s w).isSome = true ∧ (t = takeNext w s ∨ t = takeNext w (draw s)) := by
  unfold takeAny at h
  split at h
  · cases h
  · next w one =>
    cases h
    exact ⟨w, mem_dueWatchers.mp (by rw [one]; exact .head _), .inl rfl⟩
  · next w rest _ several =>
    cases h
    refine ⟨_, mem_dueWatchers.mp ?_, .inr rfl⟩
    have place : Config.freeWatcher s.draws % (rest.length + 1) < (w :: rest).length := Nat.mod_lt _ (by simp)
    rw [several, List.getD_eq_getElem _ _ place]
    exact List.getElem_mem place

theorem settleFuel_done {s : State} (h : takeAny s = none) (n : Nat) : settleFuel (n + 1) s = s := by
  unfold settleFuel; rw [h]

theorem settleFuel_more {s t : State} (h : takeAny s = some t) (n : Nat) :
    settleFuel (n + 1) s = settleFuel n t := by
  rw [settleFuel, h]

/-- Settling is so many takings, and where they are fewer than the bound none is left (R27, R28). -/
theorem settleFuel_takings : ∀ (fuel : Nat) (s : State),
    ∃ n, takings n s (settleFuel fuel s) ∧ (n < fuel → ∀ w, nextDue (settleFuel fuel s) w = none)
  | 0, s => ⟨0, rfl, fun h => absurd h (Nat.not_lt_zero _)⟩
  | fuel + 1, s => by
    cases h : takeAny s with
    | none =>
      rw [settleFuel_done h]
      exact ⟨0, rfl, fun _ => takeAny_none.mp h⟩
    | some t =>
      rw [settleFuel_more h]
      obtain ⟨w, has, one⟩ := takeAny_some h
      obtain ⟨n, rest, done⟩ := settleFuel_takings fuel t
      refine ⟨n + 1, ⟨w, has, ?_⟩, fun less => done (by omega)⟩
      rcases one with rfl | rfl
      · exact .inl rest
      · exact .inr rest

/-- Where no position is due there is nothing to settle. -/
theorem settle_quiet {s : State} (h : ∀ w ∈ s.watches, w.due = false) : settle s = s :=
  settleFuel_done (takeAny_none.mpr (nextDue_quiet h)) _

/-! ### An advance -/

theorem beltAdvance_quiet {s : State} (h : ∀ w ∈ s.watches, w.due = false) (n : Nat) :
    beltAdvance false n s = advanceBelt n s ∧ beltAdvance true n s = settle (advanceBelt n s) := by
  unfold beltAdvance; rw [settle_quiet h]; exact ⟨rfl, rfl⟩

/-- From no position due, an advance makes due exactly those the new counter has reached (R26). -/
theorem advanceBelt_watches {s : State} (h : ∀ w ∈ s.watches, w.due = false) (n : Nat) :
    (advanceBelt n s).watches = s.watches.map fun w =>
      { w with due := decide (((advanceBelt n s).position.belt - w.pos).toNat < 2 ^ 31) } := by
  refine List.map_congr_left fun w m => ?_
  rw [h w m]; rfl

/-- A counted pulse that advances the belt is an advance from a state that differs from the one before in the inputs
and the residue at most (R22, R23). -/
theorem forwardPulse_advances {s : State} (m : s.agent.mode ≠ .loading) (d : s.position.debt = 0)
    (full : s.settings.pulseMode = .divide → s.settings.pulseRatio.toNat ≤ s.position.residue + 1) :
    ∃ (v : State) (n : Nat), v.watches = s.watches ∧ (∀ whole, forwardPulse whole s = beltAdvance whole n v) ∧
      { v.position with belt := v.position.belt + BitVec.ofNat 32 n } = (match s.settings.pulseMode with
        | .divide => { s.position with belt := s.position.belt + 1, residue := 0 }
        | .multiply => { s.position with belt := s.position.belt + s.settings.pulseRatio.setWidth 32 }) := by
  cases mode : s.settings.pulseMode with
  | divide =>
    refine ⟨(pulseLevels false s).setPosition { s.position with residue := 0 }, 1, rfl, fun whole => ?_, rfl⟩
    rw [forwardPulse_counts m d]
    exact countPulse_divide (s := pulseLevels false s) mode (full mode) whole
  | multiply =>
    refine ⟨pulseLevels false s, s.settings.pulseRatio.toNat, rfl, fun whole => ?_, ?_⟩
    · rw [forwardPulse_counts m d]
      exact countPulse_multiply (s := pulseLevels false s) mode whole
    · rw [ofNat_toNat_word]; rfl

/-- Settles O29: the reached set and its settling, the arming rule, the commands of other positions, and the order of
R27. -/
theorem advancesReachPositionsInOrder : Obligations.AdvancesReachPositionsInOrder := by
  refine ⟨fun s m d quiet full => ?_, fun c kind p s => ?_, fun c s kind row none_ => ?_, fun s watcher => ⟨fun w h => ?_,
    fun h x mem own => nextDue_none h mem own⟩⟩
  · obtain ⟨v, n, watches, pulse, position⟩ := forwardPulse_advances m d full
    have quietV : ∀ w ∈ v.watches, w.due = false := by rw [watches]; exact quiet
    obtain ⟨part, whole⟩ := beltAdvance_quiet quietV n
    obtain ⟨k, taken, done⟩ := settleFuel_takings (16 * ((advanceBelt n v).watches.length + 1)) (advanceBelt n v)
    refine ⟨advanceBelt n v, congrArg _ ((pulse false).trans part), position, ?_, settle (advanceBelt n v), k,
      congrArg _ ((pulse true).trans whole), taken, done⟩
    rw [← watches]; exact advanceBelt_watches quietV n
  · exact ⟨_, rfl, rfl, rfl, by simp [reached], by simp [before]⟩
  · cases c <;> cases row
    all_goals exact congrArg _ (takeNamed_not_due none_ _)
  · obtain ⟨⟨due, own⟩, l, r, split, less, atMost⟩ := nextDue_firstFurthest h
    exact ⟨due, own, l, r, split, fun x mem d o => less x mem ⟨d, o⟩, fun x mem d o => atMost x mem ⟨d, o⟩⟩

end Sys2Proof.Machine
end

section
/-! The configuration checks and the commit checks (R30, R31, R118): the first check of a list that fails is the first
whose relation does not hold. -/
namespace Sys2Proof.Machine
open Sys2Proof.Safety

/-! ### The first failing check of a list -/

/-- A list of numbered checks in rising order, each of which fails exactly where its relation does not hold, once the
relations before it hold; a number that is no check asks nothing. -/
structure ChecksRelations (l : List (Nat × Bool)) (fails : Nat × Bool → Bool) (P : Nat → Prop) : Prop where
  rising : l.Pairwise fun x y => x.1 < y.1
  relation : ∀ x ∈ l, (∀ j < x.1, P j) → (fails x = true ↔ ¬ P x.1)
  rest : ∀ i, (∀ x ∈ l, x.1 ≠ i) → P i

/-- Where every check before a number passes, every relation before it holds. -/
theorem ChecksRelations.holds_below {l : List (Nat × Bool)} {fails : Nat × Bool → Bool} {P : Nat → Prop}
    (h : ChecksRelations l fails P) {n : Nat} (pass : ∀ x ∈ l, x.1 < n → fails x = false) : ∀ j < n, P j := by
  intro j
  induction j using Nat.strong_induction_on with
  | _ j ih =>
    intro less
    by_contra no
    have code : ∃ x ∈ l, x.1 = j := by
      by_contra none_
      exact no (h.rest j fun x m e => none_ ⟨x, m, e⟩)
    obtain ⟨x, m, rfl⟩ := code
    have fail := (h.relation x m fun i k => ih i k (k.trans less)).mpr no
    rw [pass x m less] at fail
    cases fail

/-- The check found is the first whose relation does not hold. -/
theorem ChecksRelations.found {l : List (Nat × Bool)} {fails : Nat × Bool → Bool} {P : Nat → Prop}
    (h : ChecksRelations l fails P) {x : Nat × Bool} (k : l.find? fails = some x) :
    ¬ P x.1 ∧ ∀ j < x.1, P j := by
  obtain ⟨fail, before, after, rfl, pass⟩ := List.find?_eq_some_iff_append.mp k
  have below : ∀ j < x.1, P j := h.holds_below fun y m less => by
    rcases List.mem_append.mp m with m | m
    · simpa using pass y m
    · have rising := (List.pairwise_append.mp h.rising).2.1
      rcases List.mem_cons.mp m with rfl | m
      · omega
      · have := (List.pairwise_cons.mp rising).1 y m
        omega
  exact ⟨(h.relation x (by simp) below).mp fail, below⟩

/-- Of checks that are the relations, the first that fails is the first relation that does not hold, and none fails
exactly when all hold. -/
theorem ChecksRelations.first {l : List (Nat × Bool)} {fails : Nat × Bool → Bool} {P : Nat → Prop}
    (h : ChecksRelations l fails P) :
    ((l.find? fails).map (·.1) = none ↔ ∀ i, P i) ∧
    ∀ i, (l.find? fails).map (·.1) = some i ↔ ¬ P i ∧ ∀ j < i, P j := by
  cases k : l.find? fails with
  | none =>
    have all : ∀ i, P i := fun i => by
      have pass : ∀ x ∈ l, x.1 < i + 1 → fails x = false := fun x m _ => by simpa using List.find?_eq_none.mp k x m
      exact h.holds_below pass i (Nat.lt_succ_self i)
    exact ⟨by simp [all], fun i => by simp [all]⟩
  | some x =>
    obtain ⟨no, below⟩ := h.found k
    refine ⟨⟨fun e => (by cases e), fun all => absurd (all _) no⟩, fun i => ⟨fun e => ?_, fun ⟨noI, belowI⟩ => ?_⟩⟩
    · cases e; exact ⟨no, below⟩
    · rcases Nat.lt_trichotomy x.1 i with less | same | more
      · exact absurd (belowI _ less) no
      · exact congrArg some same
      · exact absurd (below _ more) noI

/-! ### The gates -/

theorem forall_mem_toList {α : Type} {n : Nat} {v : Vector α n} {P : α → Prop} :
    (∀ x ∈ v.toList, P x) ↔ ∀ i : Fin n, P (v.get i) := by
  constructor
  · exact fun h i => h _ (by simp [Vector.get])
  · intro h x m
    obtain ⟨i, less, rfl⟩ := List.getElem_of_mem m
    exact h ⟨i, by simpa using less⟩

theorem foldl_max_le {x : Int} : ∀ (l : List Word) (m : Int),
    l.foldl (fun m g => max m (g.toNat : Int)) m ≤ x ↔ m ≤ x ∧ ∀ g ∈ l, (g.toNat : Int) ≤ x
  | [], m => by simp
  | g :: l, m => by
    rw [List.foldl_cons, foldl_max_le l, max_le_iff, List.forall_mem_cons, and_assoc]

/-- The largest Gate Distance is within a bound exactly when 0 and every Gate Distance are. -/
theorem largestGate_le {st : Settings} {x : Int} :
    largestGate st ≤ x ↔ 0 ≤ x ∧ ∀ g : Fin 6, ((st.gateDistance.get g).toNat : Int) ≤ x := by
  unfold largestGate
  rw [foldl_max_le, forall_mem_toList (P := fun w : Word => (w.toNat : Int) ≤ x)]

theorem toNat_pos {w : Word} : w ≠ 0 ↔ 0 < w.toNat := by
  rw [Nat.pos_iff_ne_zero, ne_eq, ne_eq, ← BitVec.toNat_inj]; rfl

/-! ### Table 2-4 -/

/-- Check 2 asks an installed gate, and of every installed gate its relation. -/
theorem gates_check (st : Settings) (test : Word → Bool) :
    (!(st.gateDistance.toList.filter fun g => g ≠ 0).isEmpty &&
      (st.gateDistance.toList.filter fun g => g ≠ 0).all test) = true ↔
    (∃ g : Fin 6, 0 < (st.gateDistance.get g).toNat) ∧
      ∀ g : Fin 6, 0 < (st.gateDistance.get g).toNat → test (st.gateDistance.get g) = true := by
  have none_ : (st.gateDistance.toList.filter fun g => g ≠ 0) = [] ↔
      ∀ g : Fin 6, ¬ 0 < (st.gateDistance.get g).toNat := by
    rw [List.filter_eq_nil_iff, forall_mem_toList (P := fun w : Word => ¬ decide (w ≠ 0) = true)]
    simp only [decide_eq_true_eq, toNat_pos]
  have every : (st.gateDistance.toList.filter fun g => g ≠ 0).all test = true ↔
      ∀ g : Fin 6, 0 < (st.gateDistance.get g).toNat → test (st.gateDistance.get g) = true := by
    rw [List.all_eq_true, ← forall_mem_toList (P := fun w : Word => 0 < w.toNat → test w = true)]
    simp only [List.mem_filter, decide_eq_true_eq, toNat_pos, and_imp]
  rw [Bool.and_eq_true, every, Bool.not_eq_true', ← Bool.not_eq_true, List.isEmpty_iff, none_, not_forall]
  simp only [not_not]

/-- Check 4 bounds the largest Gate Distance, which is that of an installed gate once check 2 holds. -/
theorem divert_check {s : State} (gate : ∃ g : Fin 6, 0 < (s.settings.gateDistance.get g).toNat) :
    (s.settings.divertDistance.toNat : Int) >
        largestGate s.settings - s.settings.routeLead.toNat + s.settings.staleDistance.toNat ↔ configHolds s 4 := by
  obtain ⟨g₀, installed⟩ := gate
  have bound : (s.settings.divertDistance.toNat : Int) >
        largestGate s.settings - s.settings.routeLead.toNat + s.settings.staleDistance.toNat ↔
      largestGate s.settings ≤
        s.settings.divertDistance.toNat + s.settings.routeLead.toNat - s.settings.staleDistance.toNat - 1 := by omega
  rw [bound, largestGate_le]
  constructor
  · rintro ⟨-, each⟩ g -
    have := each g
    omega
  · intro each
    have first := each g₀ installed
    refine ⟨by omega, fun g => ?_⟩
    rcases Nat.eq_zero_or_pos (s.settings.gateDistance.get g).toNat with zero | pos
    · omega
    · have := each g pos
      omega

theorem retire_check (s : State) :
    (s.settings.retireDistance.toNat : Int) ≥ largestGate s.settings ↔
      ∀ g : Fin 6, s.settings.retireDistance.toNat ≥ (s.settings.gateDistance.get g).toNat := by
  rw [ge_iff_le, largestGate_le]
  exact ⟨fun h g => Int.ofNat_le.mp (h.2 g), fun h => ⟨Int.natCast_nonneg _, fun g => Int.ofNat_le.mpr (h g)⟩⟩

/-- The checks of Table 2-4 are its relations (R31). -/
theorem configChecks_relations (s : State) :
    ChecksRelations (configChecks s.settings (s.tables.bank s.tables.active)) (fun x => !x.2) (configHolds s) where
  rising := by simp [configChecks]
  relation := by
    unfold configChecks
    simp only [List.forall_mem_cons, List.not_mem_nil, false_implies, implies_true, and_true, Bool.not_eq_true',
      ← Bool.not_eq_true, not_iff_not]
    refine ⟨fun _ => ?_, fun _ => ?_, fun _ => ?_, fun before => ?_, fun _ => ?_, fun _ => ?_, fun _ => ?_⟩
    · rw [decide_eq_true_eq]; simp only [configHolds]; omega
    · rw [gates_check]; simp only [decide_eq_true_eq]; rfl
    · have zero : s.settings.markerDistance = 0 ↔ s.settings.markerDistance.toNat = 0 := by
        rw [← BitVec.toNat_inj]; rfl
      rw [Bool.or_eq_true, decide_eq_true_eq, decide_eq_true_eq, zero]
      exact or_congr_right Int.ofNat_lt
    · rw [decide_eq_true_eq]
      exact divert_check (before 2 (by decide)).1
    · simp only [Bool.and_eq_true, decide_eq_true_eq, retire_check]
      unfold configHolds
      rw [and_assoc]
      exact and_congr Int.ofNat_le (and_congr_right fun _ => by omega)
    · rw [decide_eq_true_eq]; exact Int.ofNat_le
    · exact Option.isNone_iff_eq_none
  rest := by
    intro i other
    have codes : 1 ≠ i ∧ 2 ≠ i ∧ 3 ≠ i ∧ 4 ≠ i ∧ 5 ≠ i ∧ 6 ≠ i ∧ 7 ≠ i := by simpa [configChecks] using other
    unfold configHolds
    split
    case h_8 => trivial
    all_goals simp at codes

/-! ### Lists of values -/

theorem risesStrictly_iff : ∀ l : List Nat, risesStrictly l = true ↔ l.IsChain (· < ·)
  | [] => by simp [risesStrictly]
  | [a] => by simp [risesStrictly]
  | a :: b :: rest => by simp [risesStrictly, risesStrictly_iff (b :: rest)]

theorem neverFalls_iff : ∀ l : List Nat, neverFalls l = true ↔ l.IsChain (· ≤ ·)
  | [] => by simp [neverFalls]
  | [a] => by simp [neverFalls]
  | a :: b :: rest => by simp [neverFalls, neverFalls_iff (b :: rest)]

/-- A relation along the elements of a table holds of each and the next. -/
theorem isChain_toNat {n : Nat} (v : Vector Word (n + 1)) (R : Nat → Nat → Prop) :
    (v.toList.map (·.toNat)).IsChain R ↔ ∀ k : Fin n, R (v.get k.castSucc).toNat (v.get k.succ).toNat := by
  rw [List.isChain_iff_getElem]
  simp only [List.length_map, Vector.length_toList, List.getElem_map, Vector.getElem_toList]
  exact ⟨fun h k => h k.val (by omega), fun h i less => h ⟨i, by omega⟩⟩

theorem hasRepeatedClass_iff : ∀ l : List ClassLimit, hasRepeatedClass l = true ↔ ¬ (l.map (·.cls)).Nodup
  | [] => by simp [hasRepeatedClass]
  | x :: rest => by
    simp only [hasRepeatedClass, Bool.or_eq_true, hasRepeatedClass_iff rest, List.any_eq_true, decide_eq_true_eq,
      List.map_cons, List.nodup_cons, List.mem_map, not_and_or, not_not]

/-! ### Numbered lists -/

theorem mem_numbered {α : Type} {i : Nat} {a : α} : ∀ {start : Nat} {l : List α},
    (i, a) ∈ numbered start l ↔ ∃ k, i = start + k ∧ l[k]? = some a
  | start, [] => by simp [numbered]
  | start, x :: l => by
    rw [numbered, List.mem_cons, mem_numbered, Prod.mk.injEq]
    constructor
    · rintro (⟨rfl, rfl⟩ | ⟨k, rfl, found⟩)
      · exact ⟨0, rfl, rfl⟩
      · exact ⟨k + 1, by omega, found⟩
    · rintro ⟨k, rfl, found⟩
      cases k with
      | zero => exact .inl ⟨rfl, by simpa using found.symm⟩
      | succ k => exact .inr ⟨k, by omega, found⟩

/-- One check for each element of a list, numbered from a number on. -/
def numberedChecks {α : Type} (start : Nat) (test : α → Bool) (l : List α) : List (Nat × Bool) :=
  (numbered start l).map fun p => (p.1, test p.2)

theorem mem_numberedChecks {α : Type} {test : α → Bool} {start : Nat} {l : List α} {x : Nat × Bool} :
    x ∈ numberedChecks start test l ↔ ∃ k a, l[k]? = some a ∧ x = (start + k, test a) := by
  unfold numberedChecks
  rw [List.mem_map]
  constructor
  · rintro ⟨⟨i, a⟩, mem, rfl⟩
    obtain ⟨k, rfl, found⟩ := mem_numbered.mp mem
    exact ⟨k, a, found, rfl⟩
  · rintro ⟨k, a, found, rfl⟩
    exact ⟨(start + k, a), mem_numbered.mpr ⟨k, rfl, found⟩, rfl⟩

theorem numberedChecks_rising {α : Type} (start : Nat) (test : α → Bool) (l : List α) :
    (numberedChecks start test l).Pairwise fun x y => x.1 < y.1 := by
  induction l generalizing start with
  | nil => exact .nil
  | cons a l ih =>
    refine .cons (fun y m => ?_) (ih (start + 1))
    obtain ⟨k, _, _, rfl⟩ := mem_numberedChecks.mp m
    dsimp only; omega

theorem toList_getElem? {α : Type} {n k : Nat} {v : Vector α n} {a : α} :
    v.toList[k]? = some a ↔ ∃ h : k < n, v.get ⟨k, h⟩ = a := by
  rw [List.getElem?_eq_some_iff]
  simp [Vector.get]

/-- The rules in use are those below the Rule Count (6.1). -/
theorem rulesInUse_getElem? {b : Bank} {k : Nat} {r : Rule} :
    b.rulesInUse[k]? = some r ↔ ∃ n : Fin 8, n.val = k ∧ n.val < b.ruleCount.val ∧ b.rules.get n = r := by
  unfold Bank.rulesInUse
  rw [List.getElem?_take]
  constructor
  · intro h
    split at h
    · next less =>
      obtain ⟨inside, found⟩ := toList_getElem?.mp h
      exact ⟨⟨k, inside⟩, rfl, less, found⟩
    · cases h
  · rintro ⟨n, rfl, less, rfl⟩
    rw [if_pos less]
    exact toList_getElem?.mpr ⟨n.isLt, rfl⟩

/-! ### Table 7-3 -/

theorem commitHolds_bands (st : Settings) (b : Bank) : commitHolds st b 1 ↔
    (b.bandLimits.get 0).toNat < (b.bandLimits.get 1).toNat ∧ (b.bandLimits.get 1).toNat < (b.bandLimits.get 2).toNat := by
  unfold commitHolds
  refine ⟨fun h => h.1 rfl, fun h => ⟨fun _ => h, ?_, ?_, ?_, ?_, ?_, ?_⟩⟩ <;> intros <;> omega

theorem commitHolds_knots (st : Settings) (b : Bank) : commitHolds st b 2 ↔
    ∀ k : Fin 7, (b.knots.get k.castSucc).toNat < (b.knots.get k.succ).toNat := by
  unfold commitHolds
  refine ⟨fun h => h.2.1 rfl, fun h => ⟨?_, fun _ => h, ?_, ?_, ?_, ?_, ?_⟩⟩ <;> intros <;> omega

theorem commitHolds_thresholds (st : Settings) (b : Bank) : commitHolds st b 3 ↔
    ∀ k : Fin 3, (b.thresholds.get k.castSucc).toNat ≤ (b.thresholds.get k.succ).toNat := by
  unfold commitHolds
  refine ⟨fun h => h.2.2.1 rfl, fun h => ⟨?_, ?_, fun _ => h, ?_, ?_, ?_, ?_⟩⟩ <;> intros <;> omega

theorem commitHolds_rowCount (st : Settings) (b : Bank) : commitHolds st b 4 ↔
    1 ≤ b.rowCount.val ∧ b.rowCount.val ≤ 4 := by
  unfold commitHolds
  refine ⟨fun h => h.2.2.2.1 rfl, fun h => ⟨?_, ?_, ?_, fun _ => h, ?_, ?_, ?_⟩⟩ <;> intros <;> omega

theorem commitHolds_gate (st : Settings) (b : Bank) (n : Fin 8) : commitHolds st b (16 + n.val) ↔
    (n.val < b.ruleCount.val → 0 < (st.gateDistance.get (b.rules.get n).gate).toNat) := by
  unfold commitHolds
  refine ⟨fun h => h.2.2.2.2.1 n rfl, fun h => ⟨?_, ?_, ?_, ?_, fun m same => ?_, ?_, ?_⟩⟩
  case refine_5 =>
    obtain rfl : n = m := Fin.ext (by omega)
    exact h
  all_goals intros; omega

theorem commitHolds_limits (st : Settings) (b : Bank) (n : Fin 8) : commitHolds st b (24 + n.val) ↔
    (n.val < b.ruleCount.val → ((b.rules.get n).limits.map (·.cls)).Nodup) := by
  unfold commitHolds
  refine ⟨fun h => h.2.2.2.2.2.1 n rfl, fun h => ⟨?_, ?_, ?_, ?_, ?_, fun m same => ?_, ?_⟩⟩
  case refine_6 =>
    obtain rfl : n = m := Fin.ext (by omega)
    exact h
  all_goals intros; omega

theorem commitHolds_outcome (st : Settings) (b : Bank) (k : Fin 4) : commitHolds st b (32 + k.val) ↔
    0 < (st.gateDistance.get (b.outcomes.get k).gate).toNat := by
  unfold commitHolds
  refine ⟨fun h => h.2.2.2.2.2.2 k rfl, fun h => ⟨?_, ?_, ?_, ?_, ?_, ?_, fun m same => ?_⟩⟩
  case refine_7 =>
    obtain rfl : k = m := Fin.ext (by omega)
    exact h
  all_goals intros; omega

theorem not_gateInstalled {st : Settings} {g : Fin 6} :
    (!gateInstalled st g) = true ↔ ¬ 0 < (st.gateDistance.get g).toNat := by simp [gateInstalled]

/-- The checks on the bank's own items. -/
def itemChecks (b : Bank) : List (Nat × Bool) :=
  [(1, !risesStrictly (b.bandLimits.toList.map (·.toNat))), (2, !risesStrictly (b.knots.toList.map (·.toNat))),
   (3, !neverFalls (b.thresholds.toList.map (·.toNat))), (4, b.rowCount.val < 1 || 4 < b.rowCount.val)]

theorem itemChecks_low {b : Bank} {x : Nat × Bool} (m : x ∈ itemChecks b) : x.1 ≤ 4 := by
  simp only [itemChecks, List.mem_cons, List.not_mem_nil, or_false] at m
  rcases m with rfl | rfl | rfl | rfl <;> simp

theorem commitChecks_eq (st : Settings) (b : Bank) : commitChecks st b =
    itemChecks b ++ numberedChecks 16 (fun r => !gateInstalled st r.gate) b.rulesInUse ++
      numberedChecks 24 (fun r => hasRepeatedClass r.limits) b.rulesInUse ++
      numberedChecks 32 (fun o => !gateInstalled st o.gate) b.outcomes.toList := rfl

theorem mem_ruleChecks {b : Bank} {start : Nat} {test : Rule → Bool} {x : Nat × Bool} :
    x ∈ numberedChecks start test b.rulesInUse ↔
      ∃ n : Fin 8, n.val < b.ruleCount.val ∧ x = (start + n.val, test (b.rules.get n)) := by
  rw [mem_numberedChecks]
  constructor
  · rintro ⟨_, _, found, rfl⟩
    obtain ⟨n, rfl, less, rfl⟩ := rulesInUse_getElem?.mp found
    exact ⟨n, less, rfl⟩
  · rintro ⟨n, less, rfl⟩
    exact ⟨n.val, _, rulesInUse_getElem?.mpr ⟨n, rfl, less, rfl⟩, rfl⟩

theorem mem_outcomeChecks {b : Bank} {start : Nat} {test : ReservedOutcome → Bool} {x : Nat × Bool} :
    x ∈ numberedChecks start test b.outcomes.toList ↔ ∃ k : Fin 4, x = (start + k.val, test (b.outcomes.get k)) := by
  rw [mem_numberedChecks]
  constructor
  · rintro ⟨k, _, found, rfl⟩
    obtain ⟨inside, rfl⟩ := toList_getElem?.mp found
    exact ⟨⟨k, inside⟩, rfl⟩
  · rintro ⟨k, rfl⟩
    exact ⟨k.val, _, toList_getElem?.mpr ⟨k.isLt, rfl⟩, rfl⟩

/-- A commit check is one on the bank's own items, or one of a rule in use, or one of an outcome. -/
theorem mem_commitChecks {st : Settings} {b : Bank} {x : Nat × Bool} : x ∈ commitChecks st b ↔
    x ∈ itemChecks b ∨
    (∃ n : Fin 8, n.val < b.ruleCount.val ∧ x = (16 + n.val, !gateInstalled st (b.rules.get n).gate)) ∨
    (∃ n : Fin 8, n.val < b.ruleCount.val ∧ x = (24 + n.val, hasRepeatedClass (b.rules.get n).limits)) ∨
    ∃ k : Fin 4, x = (32 + k.val, !gateInstalled st (b.outcomes.get k).gate) := by
  rw [commitChecks_eq, List.mem_append, List.mem_append, List.mem_append, mem_ruleChecks, mem_ruleChecks,
    mem_outcomeChecks, or_assoc, or_assoc]

theorem commitChecks_rising (st : Settings) (b : Bank) : (commitChecks st b).Pairwise fun x y => x.1 < y.1 := by
  have items : (itemChecks b).Pairwise fun x y => x.1 < y.1 := by simp [itemChecks]
  rw [commitChecks_eq]
  refine List.pairwise_append.mpr ⟨List.pairwise_append.mpr ⟨List.pairwise_append.mpr ⟨items,
    numberedChecks_rising .., ?_⟩, numberedChecks_rising .., ?_⟩, numberedChecks_rising .., ?_⟩
  · intro x m y n
    obtain ⟨k, -, rfl⟩ := mem_ruleChecks.mp n
    have := itemChecks_low m
    dsimp only; omega
  · intro x m y n
    obtain ⟨k, -, rfl⟩ := mem_ruleChecks.mp n
    rcases List.mem_append.mp m with m | m
    · have := itemChecks_low m
      dsimp only; omega
    · obtain ⟨j, -, rfl⟩ := mem_ruleChecks.mp m
      dsimp only; omega
  · intro x m y n
    obtain ⟨k, rfl⟩ := mem_outcomeChecks.mp n
    rw [List.mem_append, List.mem_append] at m
    rcases m with (m | m) | m
    · have := itemChecks_low m
      dsimp only; omega
    · obtain ⟨j, -, rfl⟩ := mem_ruleChecks.mp m
      dsimp only; omega
    · obtain ⟨j, -, rfl⟩ := mem_ruleChecks.mp m
      dsimp only; omega

/-- The checks on the bank's own items are the first four relations of Table 7-3. -/
theorem itemChecks_relations (st : Settings) {b : Bank} {x : Nat × Bool} (m : x ∈ itemChecks b) :
    x.2 = true ↔ ¬ commitHolds st b x.1 := by
  simp only [itemChecks, List.mem_cons, List.not_mem_nil, or_false] at m
  rcases m with rfl | rfl | rfl | rfl <;> dsimp only
  · rw [commitHolds_bands, Bool.not_eq_true', ← Bool.not_eq_true, not_iff_not, risesStrictly_iff, isChain_toNat]
    exact ⟨fun h => ⟨h 0, h 1⟩, fun ⟨low, high⟩ k => by fin_cases k; exacts [low, high]⟩
  · rw [commitHolds_knots, Bool.not_eq_true', ← Bool.not_eq_true, not_iff_not, risesStrictly_iff, isChain_toNat]
  · rw [commitHolds_thresholds, Bool.not_eq_true', ← Bool.not_eq_true, not_iff_not, neverFalls_iff, isChain_toNat]
  · rw [commitHolds_rowCount, Bool.or_eq_true, decide_eq_true_eq, decide_eq_true_eq]
    omega

/-- The checks of Table 7-3 are its relations (R118). -/
theorem commitChecks_relations (st : Settings) (b : Bank) :
    ChecksRelations (commitChecks st b) (·.2) (commitHolds st b) where
  rising := commitChecks_rising st b
  relation x m _ := by
    rcases mem_commitChecks.mp m with m | ⟨n, less, rfl⟩ | ⟨n, less, rfl⟩ | ⟨k, rfl⟩
    · exact itemChecks_relations st m
    · rw [commitHolds_gate, not_gateInstalled]; simp [less]
    · rw [commitHolds_limits, hasRepeatedClass_iff]; simp [less]
    · rw [commitHolds_outcome, not_gateInstalled]
  rest i other := by
    have no : ∀ {n c}, (n, c) ∈ commitChecks st b → i ≠ n := fun m e => other _ m e.symm
    have item : ∀ {n c}, (n, c) ∈ itemChecks b → i ≠ n := fun m => no (mem_commitChecks.mpr (.inl m))
    exact ⟨fun e => absurd e (item (.head _)), fun e => absurd e (item (.tail _ (.head _))),
      fun e => absurd e (item (.tail _ (.tail _ (.head _)))),
      fun e => absurd e (item (.tail _ (.tail _ (.tail _ (.head _))))),
      fun n e less => absurd e (no (mem_commitChecks.mpr (.inr (.inl ⟨n, less, rfl⟩)))),
      fun n e less => absurd e (no (mem_commitChecks.mpr (.inr (.inr (.inl ⟨n, less, rfl⟩))))),
      fun k e => absurd e (no (mem_commitChecks.mpr (.inr (.inr (.inr ⟨k, rfl⟩)))))⟩

/-- Settles O49: both lists of checks are lists of relations in rising order. -/
theorem checksAreTheRelations : Obligations.ChecksAreTheRelations :=
  ⟨fun s => (configChecks_relations s).first, fun st b => (commitChecks_relations st b).first⟩

end Sys2Proof.Machine
end

section
/-! Mode requests (R30, R166 to R168): what each comes to in each mode, and what its REPLY leaves. -/
namespace Sys2Proof.Machine
open Sys2Proof.Safety

/-! ### What a REPLY leaves -/

theorem answered_mode (h : ReqHeader) (a : Answer) (s u : State) :
    (answered h a s u).agent.mode = u.agent.mode := (answered_only ..).mode.resolve_left (Part.unnamed rfl)

theorem answered_lineTest (h : ReqHeader) (a : Answer) (s u : State) :
    (answered h a s u).agent.lineTest = u.agent.lineTest := (answered_only ..).lineTest.resolve_left (Part.unnamed rfl)

theorem answered_scan (h : ReqHeader) (a : Answer) (s u : State) : (answered h a s u).scan = u.scan :=
  (answered_only ..).scan.resolve_left (Part.unnamed rfl)

theorem answered_background (h : ReqHeader) (a : Answer) (s u : State) : Background u (answered h a s u) := by
  unfold answered; split
  · exact offer_background ..
  · exact .refl u

/-! ### The requests, mode by mode -/

/-- DONE with the mode standing and no entry dropped (R166). -/
theorem withMode_eq {m : Mode} {s : State} (h : s.agent.mode = m) :
    withMode 0 s = (s, some ⟨.done, [val m.code, 0]⟩) := by
  unfold withMode modeAnswer; rw [h]; rfl

theorem modeStreaming_refused {s : State} {code : Nat} (m : s.agent.mode = .standby)
    (fail : firstConfigFailure s = some code) : modeRequest 1 s = (s, some (.at .checkFailed code)) := by
  unfold modeRequest modeStreaming; rw [m, fail]; rfl

theorem modeStreaming_begins {s : State} (m : s.agent.mode = .standby) (pass : firstConfigFailure s = none) :
    modeRequest 1 s = (beginStreaming s, some ⟨.done, [2, 0]⟩) := by
  have e : modeRequest 1 s = withMode 0 (beginStreaming s) := by
    unfold modeRequest modeStreaming; rw [m, pass]; rfl
  exact e.trans (withMode_eq rfl)

theorem modeStreaming_draining {s : State} (m : s.agent.mode = .draining) :
    modeRequest 1 s = (setMode .streaming s, some ⟨.done, [2, 0]⟩) := by
  have e : modeRequest 1 s = withMode 0 (setMode .streaming s) := by
    unfold modeRequest modeStreaming; rw [m]; rfl
  exact e.trans (withMode_eq rfl)

theorem modeStreaming_streaming {s : State} (m : s.agent.mode = .streaming) :
    modeRequest 1 s = (s, some ⟨.done, [2, 0]⟩) := by
  have e : modeRequest 1 s = withMode 0 s := by
    unfold modeRequest modeStreaming; rw [m]; rfl
  exact e.trans (withMode_eq m)

theorem modeDrain_streaming {s : State} (m : s.agent.mode = .streaming) :
    modeRequest 2 s = withMode 0 (drainEnd (Ctx.now s) (setMode .draining s)) := by
  unfold modeRequest modeDrain; rw [m]; rfl

theorem modeDrain_stays {s : State} (m : s.agent.mode = .standby ∨ s.agent.mode = .draining) :
    modeRequest 2 s = (s, some ⟨.done, [val s.agent.mode.code, 0]⟩) := by
  have e : modeRequest 2 s = withMode 0 s := by
    unfold modeRequest modeDrain; rcases m with m | m <;> (rw [m]; rfl)
  exact e.trans (withMode_eq rfl)

theorem modeFlush_standby {s : State} (m : s.agent.mode = .standby) :
    modeRequest 3 s = (s, some ⟨.done, [1, 0]⟩) := by
  have e : modeRequest 3 s = withMode 0 s := by
    unfold modeRequest modeFlush; rw [m]; rfl
  exact e.trans (withMode_eq m)

/-! ### The end of DRAINING -/

/-- While something is tracked DRAINING does not end (R168). -/
theorem drainEnd_tracked (c : Ctx) {s : State} (h : s.tracker.sheets ≠ [] ∨ s.tracker.blind.isSome = true) :
    drainEnd c s = s := by
  refine if_neg fun k => ?_
  simp only [Bool.and_eq_true, List.isEmpty_iff, Option.isNone_iff_eq_none] at k
  rcases h with h | h
  · exact h k.1.2
  · rw [k.2] at h; cases h

theorem drainEnd_ends (c : Ctx) {s : State} (m : s.agent.mode = .draining) (sheets : s.tracker.sheets = [])
    (blind : s.tracker.blind = none) : drainEnd c s = raise c .drained (enterStandby s) :=
  if_pos (by simp [m, sheets, blind])

/-- The entry to STREAMING from STANDBY (R167). -/
theorem beginStreaming_watched (s : State) :
    watched (beginStreaming s) .silence (s.position.belt + bu s.settings.silenceDistance) :=
  watched_armSilence ((s.setAgent { s.agent with lineTest := none }).setScan { s.scan with expected := none })

/-- Settles O53: each Mode request in each mode it is given in, and what the REPLY leaves of it. -/
theorem modeRequestsMoveTheMode : Obligations.ModeRequestsMoveTheMode := by
  intro s h t
  refine ⟨fun code m fail => ?_, fun m pass => ?_, fun m => ?_, fun m => ?_, fun m track => ?_, fun m sheets blind => ?_,
    fun m => ⟨?_, ?_⟩, fun m => ?_⟩
  · exact congrArg Host.Outcome.next (takeRequest_answer t (modeStreaming_refused m fail))
  · refine ⟨_, congrArg Host.Outcome.next (takeRequest_answer t (modeStreaming_begins m pass)), ?_, ?_, ?_, ?_, ?_, ?_⟩
    · rw [answered_mode]; rfl
    · rw [answered_lineTest]; rfl
    · rw [answered_scan]; rfl
    · rw [answered_scan]; rfl
    · rw [answered_scan]; rfl
    · exact (answered_background ..).toCalm.watched_silence (beginStreaming_watched s)
  · exact congrArg Host.Outcome.next (takeRequest_answer t (modeStreaming_draining m))
  · exact congrArg Host.Outcome.next (takeRequest_answer t (modeStreaming_streaming m))
  · have drains : modeRequest 2 s = (setMode .draining s, some ⟨.done, [3, 0]⟩) := by
      rw [modeDrain_streaming m, drainEnd_tracked _ (s := setMode .draining s) track]
      exact withMode_eq rfl
    exact congrArg Host.Outcome.next (takeRequest_answer t drains)
  · have ends : modeRequest 2 s = withMode 0 (raise (Ctx.now s) .drained (enterStandby (setMode .draining s))) := by
      rw [modeDrain_streaming m, drainEnd_ends _ (s := setMode .draining s) rfl sheets blind]
    refine ⟨_, congrArg Host.Outcome.next (takeRequest_answer t ends), ?_, ?_⟩
    · rw [answered_mode, (raise_only ..).mode.resolve_left (Part.unnamed rfl)]; rfl
    · rw [flagSet_answered (.inl (by decide))]; exact flagSet_raise ..
  · have stays := modeDrain_stays (.inl m)
    rw [m] at stays
    exact congrArg Host.Outcome.next (takeRequest_answer t stays)
  · exact congrArg Host.Outcome.next (takeRequest_answer t (modeFlush_standby m))
  · have stays := modeDrain_stays (.inr m)
    rw [m] at stays
    exact congrArg Host.Outcome.next (takeRequest_answer t stays)

end Sys2Proof.Machine
end

section
/-! Writes of settings (R25, R29, R160, R162, R179): the elements a value list forms, the store of one value, and what
each Write row comes to. -/
namespace Sys2Proof.Machine
open Sys2Proof.Safety

/-! ### The object and the elements of a Write -/

/-- Values of an object whose elements are one value wide form as many elements. -/
theorem elementsFormed_ones {size : Nat → Nat} (one : ∀ i, size i = 1) :
    ∀ (fuel i len : Nat), len ≤ fuel → elementsFormed size fuel i len = some len
  | _, _, 0, _ => by simp [elementsFormed]
  | 0, _, _ + 1, h => absurd h (by omega)
  | fuel + 1, i, len + 1, h => by
    rw [elementsFormed, if_pos (by rw [one]; omega), one, Nat.add_sub_cancel,
      elementsFormed_ones one fuel (i + 1) len (by omega)]
    rfl

/-- A Write of an object of one value takes one value at index 0 (R160). -/
theorem writeCount_single {s : State} {o : Object} (one : ∀ i, o.size i = 1) (single : o.elements s = 1) {i : Nat}
    {vs : List Word} (h : i ≠ 0 ∨ vs.length ≠ 1) : writeCount s o i vs = none := by
  unfold writeCount
  split
  · rw [elementsFormed_ones one _ _ _ (le_refl _)]
    exact if_neg (by rw [single]; omega)
  · rfl

theorem writeRequest_badObject {code : Byte} {index : Word} {vs : List Word} {s : State}
    (h : objectOf code = none ∨ ∃ o, objectOf code = some (.status o)) :
    writeRequest code index vs s = (s, some (.refuse .badObject)) := by
  unfold writeRequest
  rcases h with h | ⟨o, h⟩ <;> rw [h]

theorem writeRequest_badIndex {code : Byte} {o : SettingS} (h : objectOf code = some (.standby o)) {index : Word}
    {vs : List Word} {s : State} (k : writeCount s (.standby o) index.toNat vs = none) :
    writeRequest code index vs s = (s, some (.refuse .badIndex)) := by
  unfold writeRequest; rw [h]; dsimp only; rw [k]

theorem elements_standby {o : SettingS} (h : o ≠ .gateDistance) (s : State) : (Object.standby o).elements s = 1 := by
  cases o
  case gateDistance => exact absurd rfl h
  all_goals rfl

/-! ### The store of one value -/

theorem storeAll_one {α : Type} (store : Nat → List Word → α → Except Nat α) (i : Nat) (v : Word) (a : α) :
    storeAll (fun _ => 1) store 1 i 0 [v] a =
      match store i [v] a with
      | .error k => .error k
      | .ok b => .ok b := by
  have one : [v].take 1 = [v] := rfl
  unfold storeAll
  rw [one]
  cases store i [v] a with
  | error k => exact congrArg Except.error (Nat.zero_add k)
  | ok b => rfl

theorem writeStandby_mode {o : SettingS} {i n : Nat} {vs : List Word} {s : State} (m : s.agent.mode ≠ .standby) :
    writeStandby o i n vs s = (s, some (.refuse .refusedMode)) := if_pos m

/-- A value out of range is refused with its place and nothing is stored (R162). -/
theorem writeStandby_bad {o : SettingS} {i : Nat} {v : Word} {s : State} (m : s.agent.mode = .standby) {k : Nat}
    (h : o.store i v s.settings = .error k) : writeStandby o i 1 [v] s = (s, some (.at .badValue k)) := by
  have all : storeAll (fun _ => 1) (storeS o) 1 i 0 [v] s.settings = .error k := by
    rw [storeAll_one, storeS, h]
  unfold writeStandby
  rw [if_neg (not_not.mpr m), all]

theorem writeStandby_stored {o : SettingS} {i : Nat} {v : Word} {s : State} (m : s.agent.mode = .standby)
    {st : Settings} (h : o.store i v s.settings = .ok st) :
    writeStandby o i 1 [v] s = (settingStored o (s.setSettings st), some .done) := by
  have all : storeAll (fun _ => 1) (storeS o) 1 i 0 [v] s.settings = .ok st := by
    rw [storeAll_one, storeS, h]
  unfold writeStandby
  rw [if_neg (not_not.mpr m), all]

theorem writeLive_bad {o : SettingL} {i : Nat} {v : Word} {s : State} {k : Nat}
    (h : o.store i v s.settings = .error k) : writeLive o i 1 [v] s = (s, some (.at .badValue k)) := by
  have all : storeAll (fun _ => 1) (storeL o) 1 i 0 [v] s.settings = .error k := by
    rw [storeAll_one, storeL, h]
  unfold writeLive
  rw [all]

theorem writeLive_stored {o : SettingL} {i : Nat} {v : Word} {s : State} {st : Settings}
    (h : o.store i v s.settings = .ok st) : writeLive o i 1 [v] s = (s.setSettings st, some .done) := by
  have all : storeAll (fun _ => 1) (storeL o) 1 i 0 [v] s.settings = .ok st := by
    rw [storeAll_one, storeL, h]
  unfold writeLive
  rw [all]

/-- A Write of one value at one element of a Group S setting is the store of that value. -/
theorem writeRequest_one {code : Byte} {o : SettingS} (h : objectOf code = some (.standby o)) {index : Word}
    {s : State} (inside : index.toNat + 1 ≤ (Object.standby o).elements s) (v : Word) :
    writeRequest code index [v] s = writeStandby o index.toNat 1 [v] s := by
  unfold writeRequest; rw [h]; dsimp only; rw [writeCount_one rfl inside]

theorem writeRequest_one_live {code : Byte} {o : SettingL} (h : objectOf code = some (.live o)) {index : Word}
    {s : State} (inside : index.toNat + 1 ≤ (Object.live o).elements s) (v : Word) :
    writeRequest code index [v] s = writeLive o index.toNat 1 [v] s := by
  unfold writeRequest; rw [h]; dsimp only; rw [writeCount_one rfl inside]

/-! ### Ranges -/

theorem within_in {pos lo hi : Nat} {w : Word} (low : lo ≤ w.toNat) (high : w.toNat ≤ hi) :
    within pos lo hi w = .ok w := if_pos ⟨low, high⟩

theorem within_out {pos lo hi : Nat} {w : Word} (h : w.toNat < lo ∨ hi < w.toNat) :
    within pos lo hi w = .error pos := if_neg (by omega)

/-! ### The plain settings -/

theorem within_all (pos : Nat) (w : Word) : within pos 0 65535 w = .ok w := within_in (Nat.zero_le _) (by omega)

/-- The settings with a value in one of the settings of Table 2-3 that have no behaviour of their own. -/
def SettingS.put (o : SettingS) (w : Word) (st : Settings) : Settings :=
  match o with
  | .laneCount => { st with laneCount := w }
  | .scanLag => { st with scanLag := w }
  | .silenceDistance => { st with silenceDistance := w }
  | .maxSheetLength => { st with maxSheetLength := w }
  | .decisionDistance => { st with decisionDistance := w }
  | .routeLead => { st with routeLead := w }
  | .staleDistance => { st with staleDistance := w }
  | .markerDistance => { st with markerDistance := w }
  | .rowPitch => { st with rowPitch := w }
  | .dotLength => { st with dotLength := w }
  | .divertDistance => { st with divertDistance := w }
  | .retireDistance => { st with retireDistance := w }
  | .pulseMode | .pulseRatio | .reverseLimit | .gateDistance => st

/-- A setting without a behaviour of its own. -/
def SettingS.plain (o : SettingS) : Prop :=
  o ≠ .pulseMode ∧ o ≠ .pulseRatio ∧ o ≠ .reverseLimit ∧ o ≠ .gateDistance

/-- The Group S settings of one value without a behaviour of their own: code, range and store (Table 2-3). -/
theorem plain_store {code : Byte} {o : SettingS} {lo hi : Nat} (h : (code, o, lo, hi) ∈ plainSettings) :
    objectOf code = some (.standby o) ∧ o.plain ∧
      ∀ v st, o.store 0 v st = (within 0 lo hi v).map fun w => o.put w st := by
  simp only [plainSettings, List.mem_cons, List.not_mem_nil, or_false, Prod.mk.injEq] at h
  rcases h with ⟨rfl, rfl, rfl, rfl⟩ | ⟨rfl, rfl, rfl, rfl⟩ | ⟨rfl, rfl, rfl, rfl⟩ | ⟨rfl, rfl, rfl, rfl⟩ |
    ⟨rfl, rfl, rfl, rfl⟩ | ⟨rfl, rfl, rfl, rfl⟩ | ⟨rfl, rfl, rfl, rfl⟩ | ⟨rfl, rfl, rfl, rfl⟩ | ⟨rfl, rfl, rfl, rfl⟩ |
    ⟨rfl, rfl, rfl, rfl⟩ | ⟨rfl, rfl, rfl, rfl⟩ | ⟨rfl, rfl, rfl, rfl⟩
  all_goals
    refine ⟨rfl, ⟨by decide, by decide, by decide, by decide⟩, fun v st => ?_⟩
    simp only [SettingS.store, SettingS.put, within_all, Except.map]

theorem settingStored_plain {o : SettingS} (h : o.plain) (s : State) : settingStored o s = s := by
  obtain ⟨mode, ratio, limit, -⟩ := h
  cases o
  case pulseMode | pulseRatio | reverseLimit => contradiction
  all_goals rfl

/-- The put setting reads its value, and every other setting stays as it is. -/
theorem put_reads {o : SettingS} (h : o.plain) (w : Word) (st : Settings) :
    o.read (o.put w st) 0 = w ∧ (∀ x i, x ≠ o → x.read (o.put w st) i = x.read st i) ∧
      ∀ (x : SettingL) i, x.read (o.put w st) i = x.read st i := by
  obtain ⟨mode, ratio, limit, gate⟩ := h
  cases o
  case pulseMode | pulseRatio | reverseLimit | gateDistance => contradiction
  all_goals
    refine ⟨rfl, fun x i n => ?_, fun x i => (by cases x <;> rfl)⟩
    cases x <;> simp [SettingS.read, SettingS.put] at n ⊢

/-! ### The conditioner's settings -/

theorem store_divide (i : Nat) (st : Settings) : SettingS.pulseMode.store i 0 st = .ok { st with pulseMode := .divide } :=
  rfl

theorem store_multiply {st : Settings} (low : 2 ≤ st.pulseRatio.toNat) (high : st.pulseRatio.toNat ≤ 128) (i : Nat) :
    SettingS.pulseMode.store i 1 st = .ok { st with pulseMode := .multiply } := by
  have e : SettingS.pulseMode.store i 1 st =
      (within 0 2 128 st.pulseRatio).map fun _ => { st with pulseMode := .multiply } := rfl
  rw [e, within_in low high]; rfl

theorem store_pulseMode_bad {v : Word} {st : Settings}
    (h : 1 < v.toNat ∨ (v = 1 ∧ ¬ (2 ≤ st.pulseRatio.toNat ∧ st.pulseRatio.toNat ≤ 128))) (i : Nat) :
    SettingS.pulseMode.store i v st = .error 0 := by
  rcases h with h | ⟨rfl, h⟩
  · have zero : v ≠ 0 := by rintro rfl; exact absurd h (by decide)
    have one : v ≠ 1 := by rintro rfl; exact absurd h (by decide)
    dsimp only [SettingS.store]
    rw [if_neg zero, if_neg one]
  · have e : SettingS.pulseMode.store i 1 st =
        (within 0 2 128 st.pulseRatio).map fun _ => { st with pulseMode := .multiply } := rfl
    rw [e, within_out (by omega)]; rfl

/-- The range of the Pulse Ratio is that of the Pulse Mode in force (R25). -/
theorem store_pulseRatio {v : Word} {st : Settings}
    (h : (st.pulseMode = .divide ∧ 1 ≤ v.toNat ∧ v.toNat ≤ 4096) ∨
      (st.pulseMode = .multiply ∧ 2 ≤ v.toNat ∧ v.toNat ≤ 128)) (i : Nat) :
    SettingS.pulseRatio.store i v st = .ok { st with pulseRatio := v } := by
  dsimp only [SettingS.store]
  rcases h with ⟨m, low, high⟩ | ⟨m, low, high⟩ <;> rw [m, within_in low high] <;> rfl

theorem store_pulseRatio_bad {v : Word} {st : Settings}
    (h : (st.pulseMode = .divide ∧ (v.toNat < 1 ∨ 4096 < v.toNat)) ∨
      (st.pulseMode = .multiply ∧ (v.toNat < 2 ∨ 128 < v.toNat))) (i : Nat) :
    SettingS.pulseRatio.store i v st = .error 0 := by
  dsimp only [SettingS.store]
  rcases h with ⟨m, out⟩ | ⟨m, out⟩ <;> rw [m, within_out out] <;> rfl

theorem store_reverseLimit {v : Word} (h : v ≠ 0) (i : Nat) (st : Settings) :
    SettingS.reverseLimit.store i v st = .ok { st with reverseLimit := v } := by
  dsimp only [SettingS.store]
  rw [within_in (toNat_pos.mp h) (by omega)]; rfl

/-! ### Group L settings of one value -/

theorem onOff_bad {v : Word} (h : 1 < v.toNat) (pos : Nat) : onOff pos v = .error pos := by
  have zero : v ≠ 0 := by rintro rfl; exact absurd h (by decide)
  have one : v ≠ 1 := by rintro rfl; exact absurd h (by decide)
  unfold onOff
  rw [if_neg zero, if_neg one]

theorem onOff_ok {v : Word} (h : v = 0 ∨ v = 1) (pos : Nat) : onOff pos v = .ok (decide (v = 1)) := by
  rcases h with rfl | rfl <;> rfl

theorem store_markerEnable (v : Word) (i : Nat) (st : Settings) :
    SettingL.markerEnable.store i v st = (onOff 0 v).map fun b => { st with markerEnable := b } := rfl

theorem store_reportEnable (v : Word) (i : Nat) (st : Settings) :
    SettingL.reportEnable.store i v st = (onOff 0 v).map fun b => { st with reportEnable := b } := rfl

/-! ### The rows -/

theorem answered_settings (h : ReqHeader) (a : Answer) (s u : State) : (answered h a s u).settings = u.settings :=
  (answered_only ..).settings.resolve_left (Part.unnamed rfl)

theorem answered_position (h : ReqHeader) (a : Answer) (s u : State) : (answered h a s u).position = u.position :=
  (answered_only ..).position.resolve_left (Part.unnamed rfl)

/-- A taken Write of one value of a Group S setting of one value is the store of that value. -/
theorem takeWrite {h : ReqHeader} {s : State} (t : takes h s) {code : Byte} {o : SettingS}
    (object : objectOf code = some (.standby o)) (single : o ≠ .gateDistance) {v : Word} {u : State} {a : Answer}
    (k : writeStandby o 0 1 [v] s = (u, some a)) :
    takeRequest h (writeRequest code 0 [v]) s = answered h a s u := by
  refine takeRequest_answer t ?_
  rw [writeRequest_one object (by rw [elements_standby single]; rfl)]
  exact k

/-- The twelve plain settings. -/
theorem plainSetting_writes {s : State} {h : ReqHeader} {v : Word} {code : Byte} {o : SettingS} {lo hi : Nat}
    (t : takes h s) (mem : (code, o, lo, hi) ∈ plainSettings) :
    (s.agent.mode ≠ .standby → exec (.write h code 0 [v]) s = .next (answered h (.refuse .refusedMode) s s)) ∧
    (s.agent.mode = .standby → v.toNat < lo ∨ hi < v.toNat →
      exec (.write h code 0 [v]) s = .next (answered h (.at .badValue 0) s s)) ∧
    (s.agent.mode = .standby → lo ≤ v.toNat → v.toNat ≤ hi →
      exec (.write h code 0 [v]) s = .next (answered h .done s (s.setSettings (o.put v s.settings)))) := by
  obtain ⟨object, plain, store⟩ := plain_store mem
  have single : o ≠ .gateDistance := plain.2.2.2
  refine ⟨fun m => ?_, fun m out => ?_, fun m low high => ?_⟩
  · exact congrArg Host.Outcome.next (takeWrite t object single (writeStandby_mode m))
  · have bad : o.store 0 v s.settings = .error 0 := by rw [store, within_out out]; rfl
    exact congrArg Host.Outcome.next (takeWrite t object single (writeStandby_bad m bad))
  · have good : o.store 0 v s.settings = .ok (o.put v s.settings) := by rw [store, within_in low high]; rfl
    have stored := writeStandby_stored m good
    rw [settingStored_plain plain] at stored
    exact congrArg Host.Outcome.next (takeWrite t object single stored)

/-- One gate of Gate Distance is stored alone. -/
theorem gateDistance_write {s : State} {h : ReqHeader} (t : takes h s) (m : s.agent.mode = .standby) (v : Word)
    (g : Fin 6) : exec (.write h 0x09 (BitVec.ofNat 16 g.val) [v]) s = .next (answered h .done s
      (s.setSettings { s.settings with gateDistance := s.settings.gateDistance.set g.val v })) := by
  have index : (BitVec.ofNat 16 g.val).toNat = g.val := by
    rw [BitVec.toNat_ofNat]; exact Nat.mod_eq_of_lt (by omega)
  have inside : s.settings.gateDistance.setIfInBounds g.val v = s.settings.gateDistance.set g.val v := by
    ext i less
    simp [Vector.getElem_setIfInBounds, Vector.getElem_set]
  have store : SettingS.gateDistance.store g.val v s.settings =
      .ok { s.settings with gateDistance := s.settings.gateDistance.set g.val v } := by
    rw [← inside]; rfl
  refine congrArg Host.Outcome.next (takeRequest_answer t ?_)
  rw [writeRequest_one (o := .gateDistance) rfl (by rw [index]; exact g.isLt), index]
  exact writeStandby_stored m store

/-- Marker Enable and Report Enable are stored in any mode. -/
theorem liveSetting_write {s : State} {h : ReqHeader} (t : takes h s) {code : Byte} {o : SettingL}
    (object : objectOf code = some (.live o)) (single : (Object.live o).elements s = 1) {v : Word} {u : State}
    {a : Answer} (k : writeLive o 0 1 [v] s = (u, some a)) :
    exec (.write h code 0 [v]) s = .next (answered h a s u) := by
  refine congrArg Host.Outcome.next (takeRequest_answer t ?_)
  rw [writeRequest_one_live object (by rw [single]; rfl)]
  exact k

/-- Settles O51: each Write row by the object it names, the elements it forms and the store of its value. -/
theorem settingWrites : Obligations.SettingWrites := by
  refine ⟨fun s h v code o lo hi t mem => ?_, fun s h code index values t => ⟨fun bad => ?_, fun o object single off => ?_⟩,
    fun s h v g t m => gateDistance_write t m v g, fun s h v t => ⟨fun flag => ⟨?_, ?_⟩, fun big => ⟨?_, ?_⟩⟩,
    fun s h v t => ⟨fun m => ⟨?_, ?_, ?_⟩, fun m => ⟨fun zero => ?_, fun one low high => ?_, fun bad => ?_, fun ok => ?_,
      fun bad => ?_, fun zero => ?_, fun pos => ?_⟩⟩⟩
  · obtain ⟨refused, bad, stored⟩ := plainSetting_writes (v := v) t mem
    exact ⟨refused, bad, fun m low high => ⟨_, stored m low high, put_reads (plain_store mem).2.1 v s.settings⟩⟩
  · exact congrArg Host.Outcome.next (takeRequest_answer t (writeRequest_badObject bad))
  · have none_ : writeCount s (.standby o) index.toNat values = none :=
      writeCount_single (fun _ => rfl) (elements_standby single s)
        (off.imp (fun n => by simpa [← BitVec.toNat_inj] using n) id)
    exact congrArg Host.Outcome.next (takeRequest_answer t (writeRequest_badIndex object none_))
  · exact liveSetting_write t rfl rfl (writeLive_stored (by rw [store_markerEnable, onOff_ok flag]; rfl))
  · exact liveSetting_write t rfl rfl (writeLive_stored (by rw [store_reportEnable, onOff_ok flag]; rfl))
  · exact liveSetting_write t rfl rfl (writeLive_bad (by rw [store_markerEnable, onOff_bad big]; rfl))
  · exact liveSetting_write t rfl rfl (writeLive_bad (by rw [store_reportEnable, onOff_bad big]; rfl))
  · exact congrArg Host.Outcome.next (takeWrite (o := .pulseMode) t rfl (by decide) (writeStandby_mode m))
  · exact congrArg Host.Outcome.next (takeWrite (o := .pulseRatio) t rfl (by decide) (writeStandby_mode m))
  · exact congrArg Host.Outcome.next (takeWrite (o := .reverseLimit) t rfl (by decide) (writeStandby_mode m))
  · subst zero
    have stored := writeStandby_stored m (store_divide 0 s.settings)
    refine ⟨_, congrArg Host.Outcome.next (takeWrite t rfl (by decide) stored), ?_, ?_⟩
    · rw [answered_settings]; rfl
    · rw [answered_position]; rfl
  · subst one
    have stored := writeStandby_stored m (store_multiply low high 0)
    refine ⟨_, congrArg Host.Outcome.next (takeWrite t rfl (by decide) stored), ?_, ?_⟩
    · rw [answered_settings]; rfl
    · rw [answered_position]; rfl
  · exact congrArg Host.Outcome.next (takeWrite t rfl (by decide) (writeStandby_bad m (store_pulseMode_bad bad 0)))
  · have stored := writeStandby_stored m (store_pulseRatio ok 0)
    refine ⟨_, congrArg Host.Outcome.next (takeWrite t rfl (by decide) stored), ?_, ?_⟩
    · rw [answered_settings]; rfl
    · rw [answered_position]; rfl
  · exact congrArg Host.Outcome.next (takeWrite t rfl (by decide) (writeStandby_bad m (store_pulseRatio_bad bad 0)))
  · subst zero
    have bad : SettingS.reverseLimit.store 0 0 s.settings = .error 0 := rfl
    exact congrArg Host.Outcome.next (takeWrite t rfl (by decide) (writeStandby_bad m bad))
  · have stored := writeStandby_stored m (store_reverseLimit pos 0 s.settings)
    refine ⟨_, congrArg Host.Outcome.next (takeWrite t rfl (by decide) stored), ?_, ?_, ?_⟩
    · rw [answered_settings]; rfl
    · rw [answered_position]; rfl
    · rw [flagSet_answered (.inl (by decide))]; rfl

end Sys2Proof.Machine
end

section
/-! The fire point of a decided entry (R131, R132, R137): its ROUTE record placed, or the entry diverted. -/
namespace Sys2Proof.Machine
open Sys2Proof.Safety

/-! ### The positions an entry leaves with its taking -/

theorem dropWatch_rest {w : Watch} {s : State} (h : linkAtRest s) : linkAtRest (dropWatch w s) :=
  linkAtRest_only (dropWatch_only ..) (Part.unnamed rfl) (Part.unnamed rfl) h

theorem findEntry_dropWatch (w : Watch) (tag : Tag) (s : State) : findEntry tag (dropWatch w s) = findEntry tag s :=
  findEntry_only (dropWatch_only ..) (Part.unnamed rfl) tag

/-! ### The placement -/

/-- An entry whose ROUTE record waits, its stale expiry armed (R131, R132). -/
def routePlaced (tag : Tag) (d : Decision) (leading : Position) (w : Watch) (s : State) : State :=
  let stale := w.pos + bu s.settings.staleDistance
  arm (staleCtx w stale s) (.stale tag) stale
    (modifyEntry tag (fun e => { e with route := .placed }) (enqueue (.route tag d.gate d.grade leading) s))

/-- A fire point whose entry is decided, PENDING and not diverted. -/
structure Fires (s : State) (tag : Tag) (e : Entry) (d : Decision) : Prop where
  found : findEntry tag s = some e
  decided : e.decision = some d
  pending : e.route = .pending
  undiverted : e.flags.diverted = false

theorem firePoint_room {s : State} {tag : Tag} {e : Entry} {d : Decision} (h : Fires s tag e d)
    (room : s.link.queue.length < Config.outputQueueMax) (w : Watch) :
    firePoint tag w s = tryBegin (routePlaced tag d e.leading w s) := by
  have room' : roomForRoute s = true := decide_eq_true room
  unfold firePoint
  dsimp only
  rw [withEntry_some h.found, h.decided]
  dsimp only
  rw [if_pos (by simp [h.pending, h.undiverted]), if_pos room']
  rfl

theorem firePoint_full {s : State} {tag : Tag} {e : Entry} {d : Decision} (h : Fires s tag e d)
    (full : Config.outputQueueMax ≤ s.link.queue.length) (w : Watch) :
    firePoint tag w s = divertEntry (Ctx.at .scheduler w.pos) tag s := by
  have noRoom : ¬ roomForRoute s = true := by simpa [roomForRoute] using full
  unfold firePoint
  dsimp only
  rw [withEntry_some h.found, h.decided]
  dsimp only
  rw [if_pos (by simp [h.pending, h.undiverted]), if_neg noRoom]

/-- When the stale expiry armed with a placement is due in the same advance (R28, R132, log 17). -/
theorem stale_due (w : Watch) (stale : Position) (s : State) :
    (decide ((staleCtx w stale s).watcher = some .scheduler) && reached s.position.belt stale) = true ↔
      (s.position.belt - stale).toNat < 2 ^ 31 ∧ (w.passed = false ∨ stale = s.position.belt) := by
  have watcher : (staleCtx w stale s).watcher = some .scheduler ↔
      ¬ (w.passed = true ∧ before stale s.position.belt = true) := by
    unfold staleCtx; dsimp only
    split <;> simp_all
  rw [Bool.and_eq_true, decide_eq_true_eq, watcher]
  simp only [reached, before, Bool.and_eq_true, decide_eq_true_eq]
  cases w.passed <;> by_cases same : stale = s.position.belt <;> simp [same, and_comm]

theorem routePlaced_sheets (tag : Tag) (d : Decision) (leading : Position) (w : Watch) (s : State) :
    entryBecomes tag (fun x => { x with route := .placed }) s (routePlaced tag d leading w s) := rfl

/-- A placement that begins sending at once makes the entry SENT (R134). -/
theorem routePlaced_begins {tag : Tag} {d : Decision} {leading : Position} {w : Watch} {s : State} (rest : linkAtRest s)
    (ready : s.pins.ready = true) (idle : s.link.sending = none) :
    tryBegin (routePlaced tag d leading w s) = routeSent (.route tag d.gate d.grade leading)
      ((routePlaced tag d leading w s).setLink ⟨[], some (.route tag d.gate d.grade leading)⟩) := by
  have link : (routePlaced tag d leading w s).link = ⟨[.route tag d.gate d.grade leading], none⟩ := by
    have queue := rest ready idle
    have e : (routePlaced tag d leading w s).link =
      ⟨s.link.queue ++ [.route tag d.gate d.grade leading], s.link.sending⟩ := rfl
    rw [e, queue, idle]; rfl
  have pins : (routePlaced tag d leading w s).pins.ready = true := ready
  unfold tryBegin
  rw [link, pins]

/-- A placement that cannot begin sending waits. -/
theorem routePlaced_waits {tag : Tag} {d : Decision} {leading : Position} {w : Watch} {s : State}
    (busy : ¬ (s.pins.ready = true ∧ s.link.sending = none)) :
    tryBegin (routePlaced tag d leading w s) = routePlaced tag d leading w s := by
  rcases tryBegin_cases (routePlaced tag d leading w s) with k | ⟨r, rest, link, ready, -⟩
  · exact k.1
  · exact absurd ⟨ready, congrArg Link.sending link⟩ busy

/-- The tests of a fire point look at the sheets, which its taking leaves. -/
theorem Fires.dropWatch {s : State} {tag : Tag} {e : Entry} {d : Decision} (h : Fires s tag e d) (w : Watch) :
    Fires (dropWatch w s) tag e d :=
  ⟨(findEntry_dropWatch w tag s).trans h.found, h.decided, h.pending, h.undiverted⟩

/-! ### The divert -/

/-- An entry diverted before its flag is raised: window armed, with its two positions (R137, log 29). -/
def windowArmed (c : Ctx) (tag : Tag) (e : Entry) (s : State) : State :=
  arm c (.windowClosing tag) (e.trailing.getD e.leading + bu s.settings.divertDistance)
    (arm c (.windowOpening tag) (e.leading + bu s.settings.divertDistance)
      (modifyEntry tag (fun x => { x with flags := { x.flags with diverted := true }, window := some .waiting }) s))

theorem divertEntry_eq (c : Ctx) {tag : Tag} {s : State} {e : Entry} (found : findEntry tag s = some e) :
    divertEntry c tag s = raise c .diverted (windowArmed c tag e s) := withEntry_some found

theorem windowArmed_only (c : Ctx) (tag : Tag) (e : Entry) (s : State) :
    Only [.entries, .watches] s (windowArmed c tag e s) :=
  .via (arm_only ..) rfl (.via (arm_only ..) rfl (.via (modifyEntry_only _ _ _ fun _ => ⟨rfl, rfl, rfl⟩) rfl (.refl ..)))

/-- What a divert does, with the link at rest (R137). -/
theorem divertEntry_diverts (c : Ctx) {tag : Tag} {s : State} {e : Entry} (found : findEntry tag s = some e)
    (rest : linkAtRest s) :
    entryBecomes tag (fun x => { x with flags := { x.flags with diverted := true }, window := some .waiting }) s
        (divertEntry c tag s) ∧
      raises [.diverted] s (divertEntry c tag s) ∧
      watched (divertEntry c tag s) (.windowOpening tag) (e.leading + bu s.settings.divertDistance) ∧
      watched (divertEntry c tag s) (.windowClosing tag) (e.trailing.getD e.leading + bu s.settings.divertDistance) := by
  have armed := windowArmed_only c tag e s
  have restArmed : linkAtRest (windowArmed c tag e s) :=
    linkAtRest_only armed (Part.unnamed rfl) (Part.unnamed rfl) rest
  have raised := raise_rest (c := c) (f := .diverted) restArmed
  have watches := raised.watches.resolve_left (Part.unnamed rfl)
  rw [divertEntry_eq c found]
  refine ⟨?_, ⟨fun f m => ?_, fun g n o => ?_⟩, watched_congr watches (watched_arm_mono (watched_arm ..)),
    watched_congr watches (watched_arm ..)⟩
  · exact raised.entries.resolve_left (Part.unnamed rfl)
  · exact (raises_raise c .diverted _).1 f m
  · exact ((raises_raise c .diverted _).2 g n o).trans (armed.flagSet (Part.unnamed rfl) g)

/-- Settles O36: a placement that waits or begins at once, or a divert. -/
theorem firePointPlacesOrDiverts : Obligations.FirePointPlacesOrDiverts := by
  intro s w e d rest due found decided pending undiverted
  have fires : Fires (dropWatch w s) e.tag e d := Fires.dropWatch ⟨found, decided, pending, undiverted⟩ w
  have restDropped : linkAtRest (dropWatch w s) := dropWatch_rest rest
  refine ⟨_, congrArg Host.Outcome.next (takeNamed_due due), fun room => ?_, fun full => ?_⟩
  · rw [firePoint_room fires room]
    by_cases begins : s.pins.ready = true ∧ s.link.sending = none
    · rw [routePlaced_begins restDropped begins.1 begins.2]
      refine ⟨.inr rfl, rfl, fun _ => ⟨?_, unwatched_disarm _ _⟩, fun waits => absurd begins waits⟩
      have sheets := routePlaced_sheets e.tag d e.leading w (dropWatch w s)
      unfold entryBecomes at sheets ⊢
      simp only [routeSent, disarm, modifyEntry, State.setWatches_tracker, State.setTracker_tracker,
        State.setLink_tracker, sheets, List.map_map]
      refine List.map_congr_left fun x _ => ?_
      by_cases same : x.tag = e.tag <;> simp [same]
    · rw [routePlaced_waits (s := dropWatch w s) begins]
      exact ⟨.inl (List.mem_append_right _ (.head _)), rfl, fun k => absurd k begins,
        fun _ => ⟨rfl, rfl, _, rfl, rfl, rfl, stale_due w _ (dropWatch w s)⟩⟩
  · rw [firePoint_full fires full]
    obtain ⟨becomes, raised, opening, closing⟩ :=
      divertEntry_diverts (Ctx.at .scheduler w.pos) fires.found restDropped
    exact ⟨becomes, raised, opening, closing⟩

end Sys2Proof.Machine
end

section
/-! Marking every entry suspect, with the link at rest (R47, R48): what the mark of one entry leaves of another, and what
it does to its own by the rows of Table 3-4. -/
namespace Sys2Proof.Machine
open Sys2Proof.Safety

/-! ### Watched positions, as arming and cancelling leave them -/

theorem watched_arm_iff {c : Ctx} {k j : WatchKind} {p q : Position} {s : State} :
    watched (arm c k p s) j q ↔ watched s j q ∨ (k = j ∧ p = q) := by
  constructor
  · rintro ⟨w, m, kind, pos⟩
    simp only [arm, State.setWatches_watches, List.mem_append, List.mem_singleton] at m
    rcases m with m | rfl
    · exact .inl ⟨w, m, kind, pos⟩
    · exact .inr ⟨kind, pos⟩
  · rintro (h | ⟨rfl, rfl⟩)
    · exact watched_arm_mono h
    · exact watched_arm ..

theorem watched_disarm_iff {k j : WatchKind} {q : Position} {s : State} :
    watched (disarm k s) j q ↔ j ≠ k ∧ watched s j q := by
  constructor
  · rintro ⟨w, m, kind, pos⟩
    simp only [disarm, State.setWatches_watches, List.mem_filter, decide_eq_true_eq] at m
    exact ⟨kind ▸ m.2, w, m.1, kind, pos⟩
  · exact fun ⟨n, h⟩ => watched_disarm n h

/-! ### What an operation on one entry leaves of another -/

/-- The watched positions of an entry. -/
def watchesOf (x : Tag) (s : State) : List Watch := s.watches.filter fun w => w.kind.tag = some x

/-- The entry `x`, its positions and its place on the Grading List stay, and so do the evaluation in flight and the rest
of the link. -/
structure Apart (x : Tag) (s t : State) : Prop where
  entry : findEntry x t = findEntry x s
  watches : watchesOf x t = watchesOf x s
  listed : x ∈ t.evaluator.list ↔ x ∈ s.evaluator.list
  inFlight : t.evaluator.inFlight = s.evaluator.inFlight
  rest : linkAtRest t

theorem Apart.refl {x : Tag} {s : State} (h : linkAtRest s) : Apart x s s := ⟨rfl, rfl, .rfl, rfl, h⟩

theorem Apart.trans {x : Tag} {s t u : State} (h : Apart x s t) (k : Apart x t u) : Apart x s u :=
  ⟨k.entry.trans h.entry, k.watches.trans h.watches, k.listed.trans h.listed, k.inFlight.trans h.inFlight, k.rest⟩

/-- What touches neither entries, positions nor the evaluator leaves every entry apart. -/
theorem Only.apart {W : List Part} {s t : State} (k : Only W s t) (entries : W.contains .entries = false)
    (watches : W.contains .watches = false) (evaluator : W.contains .evaluator = false) (rest : linkAtRest t)
    (x : Tag) : Apart x s t := by
  have e := k.evaluator.resolve_left (Part.unnamed evaluator)
  refine ⟨findEntry_only k (Part.unnamed entries) x, ?_, by rw [e], by rw [e], rest⟩
  unfold watchesOf; rw [k.watches.resolve_left (Part.unnamed watches)]

theorem withEntry_apart {x tag : Tag} {f : Entry → State → State} {s : State} (rest : linkAtRest s)
    (h : ∀ e, Apart x s (f e s)) : Apart x s (withEntry tag f s) := by
  unfold withEntry; split
  · exact h _
  · exact .refl rest

theorem modifyEntry_apart {x tag : Tag} {f : Entry → Entry} {s : State} (n : x ≠ tag) (hf : ∀ e, (f e).tag = e.tag)
    (rest : linkAtRest s) : Apart x s (modifyEntry tag f s) := by
  refine ⟨?_, rfl, .rfl, rfl, rest⟩
  rw [findEntry_modifyEntry hf]
  cases found : findEntry x s with
  | none => rfl
  | some e =>
    have own : e.tag = x := (Stable.findEntry_mem found).2
    rw [Option.map_some, if_neg (own ▸ n)]

theorem arm_apart {x : Tag} {k : WatchKind} {s : State} (n : k.tag ≠ some x) (rest : linkAtRest s) (c : Ctx)
    (p : Position) : Apart x s (arm c k p s) := by
  refine ⟨rfl, ?_, .rfl, rfl, rest⟩
  simp [watchesOf, arm, List.filter_append, n]

theorem disarm_apart {x : Tag} {k : WatchKind} {s : State} (n : k.tag ≠ some x) (rest : linkAtRest s) :
    Apart x s (disarm k s) := by
  refine ⟨rfl, ?_, .rfl, rfl, rest⟩
  simp only [watchesOf, disarm, State.setWatches_watches, List.filter_filter]
  refine List.filter_congr fun w _ => ?_
  by_cases own : w.kind.tag = some x
  · have other : w.kind ≠ k := by rintro rfl; exact n own
    simp [own, other]
  · simp [own]

theorem unlist_apart {x tag : Tag} {s : State} (n : x ≠ tag) (rest : linkAtRest s) : Apart x s (unlist tag s) :=
  ⟨rfl, rfl, by simp [unlist, n], rfl, rest⟩

/-! ### The end of a hold, and a decision -/

/-- What keeps the link at rest and changes no sheet leaves every entry apart. -/
theorem keepsRest.apart {s t : State} (h : keepsRest s t) (x : Tag) : Apart x s t := h.1.apart rfl rfl rfl h.2 x

/-- The end of one hold, with the link at rest, changes no sheet (R113, R114). -/
theorem releaseHold_keepsRest (c : Ctx) (id : BankId) {s : State} (rest : linkAtRest s) :
    keepsRest s (releaseHold c id s) := by
  have counted : keepsRest s (s.setTables (s.tables.setHolders id (s.tables.holders id - 1))) :=
    ⟨(setHolders_only ..).mono rfl, rest⟩
  unfold releaseHold; dsimp only; split
  · exact counted
  · exact counted.trans (releaseBank_keepsRest c counted.2)

theorem endHold_apart {x tag : Tag} (n : x ≠ tag) (c : Ctx) {s : State} (rest : linkAtRest s) :
    Apart x s (endHold c tag s) := by
  refine withEntry_apart rest fun e => ?_
  have ended : Apart x s (modifyEntry tag (fun e => { e with holding := false }) s) :=
    modifyEntry_apart n (fun _ => rfl) rest
  split
  · exact ended.trans ((releaseHold_keepsRest c e.bank ended.rest).apart x)
  · exact .refl rest

/-- At the end of its need an entry stops holding its bank, and keeps its positions (R49). -/
theorem endHold_self (c : Ctx) {tag : Tag} {s : State} {e : Entry} (found : findEntry tag s = some e)
    (rest : linkAtRest s) :
    findEntry tag (endHold c tag s) = some { e with holding := e.holding && e.needsBank } ∧
      (endHold c tag s).watches = s.watches ∧ (endHold c tag s).evaluator = s.evaluator := by
  unfold endHold
  rw [withEntry_some found]
  split
  · next ends =>
    simp only [Bool.and_eq_true, Bool.not_eq_true'] at ends
    obtain ⟨quiet, -⟩ :=
      releaseHold_keepsRest c e.bank (s := modifyEntry tag (fun e => { e with holding := false }) s) rest
    refine ⟨?_, quiet.quiet.2, quiet.evaluator.resolve_left (Part.unnamed rfl)⟩
    rw [findEntry_only quiet (Part.unnamed rfl), ends.2, Bool.and_false]
    exact findEntry_modifyEntry_self (f := fun e => { e with holding := false }) (fun _ => rfl) found
  · next stays =>
    have same : (e.holding && e.needsBank) = e.holding := by
      cases h : e.holding <;> simp_all
    rw [same]
    exact ⟨found, rfl, rfl⟩

theorem routeDecided_apart {x tag : Tag} (n : x ≠ tag) (c : Ctx) {s : State} (rest : linkAtRest s) :
    Apart x s (routeDecided c tag s) := by
  have other : WatchKind.tag (.fire tag) ≠ some x := fun k => n (Option.some.inj k).symm
  refine withEntry_apart rest fun e => ?_
  split
  · split
    · have cancelled := disarm_apart other rest
      exact cancelled.trans (arm_apart other cancelled.rest _ _)
    · exact .refl rest
  · exact .refl rest

theorem markerDecided_apart {x tag : Tag} (n : x ≠ tag) (c : Ctx) (first : Bool) {s : State} (rest : linkAtRest s) :
    Apart x s (markerDecided c tag first s) := by
  have other : WatchKind.tag (.stampStart tag) ≠ some x := fun k => n (Option.some.inj k).symm
  unfold markerDecided; split
  · exact withEntry_apart rest fun e => arm_apart other rest _ _
  · exact .refl rest

theorem decideAs_apart {x tag : Tag} (n : x ≠ tag) (c : Ctx) (d : Decision) (e : Entry) {s : State}
    (rest : linkAtRest s) : Apart x s (decideAs c d tag e s) := by
  have told := (modifyEntry_apart (f := fun e => e.decided d) n (fun _ => rfl) rest).trans
    (unlist_apart (s := modifyEntry tag (fun e => e.decided d) s) n rest)
  have routed := told.trans (routeDecided_apart n c told.rest)
  exact routed.trans (markerDecided_apart n c _ routed.rest)

theorem decideEntry_apart {x tag : Tag} (n : x ≠ tag) (c : Ctx) (source : DecisionSource) {s : State}
    (rest : linkAtRest s) : Apart x s (decideEntry c source tag s) :=
  withEntry_apart rest fun e => decideAs_apart n c _ e rest

/-- The mark of one entry leaves every other apart. -/
theorem markSuspect_apart {x tag : Tag} (n : x ≠ tag) (c : Ctx) (own : EntryFlags → EntryFlags) {s : State}
    (rest : linkAtRest s) : Apart x s (markSuspect c own tag s) := by
  refine withEntry_apart rest fun e => ?_
  have flagged : Apart x s (flagSuspect own tag s) := modifyEntry_apart n (fun _ => rfl) rest
  dsimp only; split
  · exact flagged
  · split
    · have decided := flagged.trans (decideEntry_apart n c .suspect flagged.rest)
      exact decided.trans (endHold_apart n c decided.rest)
    · split
      · exact flagged.trans (decideAs_apart n c _ e flagged.rest)
      · exact flagged

theorem markAll_apart {x : Tag} (c : Ctx) (own : EntryFlags → EntryFlags) :
    ∀ (tags : List Tag) (s : State), x ∉ tags → linkAtRest s → Apart x s (markAll c own tags s)
  | [], _, _, rest => .refl rest
  | tag :: tags, s, fresh, rest => by
    obtain ⟨n, fresh⟩ := List.ne_and_not_mem_of_not_mem_cons fresh
    have first := markSuspect_apart n c own rest
    exact first.trans (markAll_apart c own tags _ fresh first.rest)

/-! ### A decision, on its own entry -/

theorem routeDecided_findEntry (c : Ctx) (tag x : Tag) (s : State) :
    findEntry x (routeDecided c tag s) = findEntry x s :=
  findEntry_only (routeDecided_only c tag s) (Part.unnamed rfl) x

/-- The Marker Driver told of a decision: at the first one, with Marker Distance above 0, the stamp start is armed
(R149). -/
theorem markerDecided_watched {c : Ctx} {tag : Tag} {first : Bool} {s : State} {e : Entry}
    (found : findEntry tag s = some e) {k : WatchKind} {p : Position} :
    watched (markerDecided c tag first s) k p ↔ watched s k p ∨
      (first = true ∧ s.settings.markerDistance ≠ 0 ∧ .stampStart tag = k ∧
        e.leading + bu s.settings.markerDistance = p) := by
  unfold markerDecided
  by_cases arms : first = true ∧ s.settings.markerDistance ≠ 0
  · rw [if_pos (by simpa only [Bool.and_eq_true, decide_eq_true_eq] using arms), withEntry_some found, watched_arm_iff]
    exact or_congr_right ⟨fun h => ⟨arms.1, arms.2, h⟩, fun h => h.2.2⟩
  · rw [if_neg (by simpa only [Bool.and_eq_true, decide_eq_true_eq] using arms)]
    exact ⟨.inl, fun h => h.elim id fun ⟨a, b, _⟩ => absurd ⟨a, b⟩ arms⟩

/-- The Route Scheduler told of a decision of a PENDING entry that is not diverted: its fire point is armed in place of
any other (R130). -/
theorem routeDecided_pending {c : Ctx} {tag : Tag} {s : State} {e : Entry} {d : Decision}
    (found : findEntry tag s = some e) (decided : e.decision = some d) (pending : e.route = .pending)
    (undiverted : e.flags.diverted = false) :
    routeDecided c tag s = arm c (.fire tag) (firePosition s.settings e.leading d.gate) (disarm (.fire tag) s) := by
  unfold routeDecided
  rw [withEntry_some found, decided]
  exact if_pos (by simp [pending, undiverted])

/-- Of the stamp starts nothing changes when the Route Scheduler is told. -/
theorem routeDecided_stampStart {c : Ctx} {tag x : Tag} {s : State} {p : Position} :
    watched (routeDecided c tag s) (.stampStart x) p ↔ watched s (.stampStart x) p := by
  cases found : findEntry tag s with
  | none => unfold routeDecided withEntry; rw [found]
  | some e =>
    cases decided : e.decision with
    | none => unfold routeDecided; rw [withEntry_some found, decided]
    | some d =>
      by_cases arms : e.route = .pending ∧ e.flags.diverted = false
      · rw [routeDecided_pending found decided arms.1 arms.2, watched_arm_iff, watched_disarm_iff]
        simp
      · unfold routeDecided
        rw [withEntry_some found, decided]
        dsimp only
        rw [if_neg (by simpa using arms)]

/-- What a decision does to its entry: the entry, off the Grading List (R45). -/
theorem decideAs_self (c : Ctx) (d : Decision) {tag : Tag} (x : Entry) {s : State} {e : Entry}
    (found : findEntry tag s = some e) :
    findEntry tag (decideAs c d tag x s) = some (e.decided d) ∧ tag ∉ (decideAs c d tag x s).evaluator.list := by
  have told : Only [.watches] (unlist tag (modifyEntry tag (fun e => e.decided d) s)) (decideAs c d tag x s) :=
    .via (markerDecided_only ..) rfl (.via (routeDecided_only ..) rfl (.refl ..))
  constructor
  · rw [findEntry_only told (Part.unnamed rfl)]
    exact (findEntry_only (unlist_only ..) (Part.unnamed rfl) tag).trans
      (findEntry_modifyEntry_self (fun _ => rfl) found)
  · rw [told.evaluator.resolve_left (Part.unnamed rfl)]
    simp [unlist]

/-- What a decision arms for its entry (R130, R149). `x` is the entry as it stood before. -/
theorem decideAs_arms (c : Ctx) (d : Decision) {tag : Tag} (x : Entry) {s : State} {e : Entry}
    (found : findEntry tag s = some e) (own : x.tag = tag) (leading : x.leading = e.leading) (route : x.route = e.route)
    (diverted : x.flags.diverted = e.flags.diverted) {first : Entry} (decision : x.decision = first.decision) :
    armsPositions s (decideAs c d tag first s) x d.gate := by
  let m := unlist tag (modifyEntry tag (fun e => e.decided d) s)
  have foundM : findEntry tag m = some (e.decided d) := findEntry_modifyEntry_self (fun _ => rfl) found
  have foundR : findEntry tag (routeDecided c tag m) = some (e.decided d) :=
    (routeDecided_findEntry ..).trans foundM
  have settings : (routeDecided c tag m).settings = s.settings :=
    (routeDecided_only ..).settings.resolve_left (Part.unnamed rfl)
  have after : ∀ {k p}, watched (decideAs c d tag first s) k p ↔ _ := fun {k p} =>
    markerDecided_watched (c := c) (first := first.decision.isNone) foundR (k := k) (p := p)
  unfold armsPositions
  subst own
  refine ⟨fun pending undiverted => ?_, fun undecided distance => ?_, fun kept p => ?_⟩
  · have told := routeDecided_pending (c := c) foundM rfl (route ▸ pending) (diverted ▸ undiverted)
    have fire : ∀ p, watched (decideAs c d x.tag first s) (.fire x.tag) p ↔
        x.leading + bu (s.settings.gateDistance.get d.gate) - bu s.settings.routeLead = p := fun p => by
      rw [after, told, watched_arm_iff, watched_disarm_iff, leading]
      simp only [ne_eq, not_true_eq_false, false_and, false_or, true_and, reduceCtorEq, and_false, or_false]
      exact Iff.rfl
    exact ⟨(fire _).mpr rfl, fun w mem kind => ((fire w.pos).mp ⟨w, mem, kind, rfl⟩).symm⟩
  · rw [after]
    exact .inr ⟨by rw [← decision, undecided]; rfl, by rw [settings]; exact distance, rfl, by rw [settings, leading]; rfl⟩
  · have noStamp : ¬ (first.decision.isNone = true ∧ s.settings.markerDistance ≠ 0) := by
      rintro ⟨none_, distance⟩
      rcases kept with some_ | zero
      · rw [decision, Option.isSome_iff_ne_none] at some_
        exact some_ (Option.isNone_iff_eq_none.mp none_)
      · exact distance zero
    rw [after, routeDecided_stampStart, settings]
    exact ⟨fun h => h.elim id fun ⟨a, b, _⟩ => absurd ⟨a, b⟩ noStamp, .inl⟩

/-! ### The rows of Table 3-4 -/

/-- A SUSPECT decision sets decision and evaluation status, and no flag. -/
theorem decided_suspect {d : Decision} (source : d.source = .suspect) (e : Entry) :
    e.decided d = { e with
      decision := some d, evalStatus := if e.evalStatus = .listed then .none else e.evalStatus } := by
  unfold Entry.decided
  rw [source]
  simp

/-- Whether a CLOSED entry with a SUSPECT decision needs its bank: while it is in evaluation (R49). -/
theorem needsBank_suspect {d : Decision} (source : d.source = .suspect) {e : Entry} (closed : e.isOpen = false) :
    (e.decided d).needsBank = decide (e.evalStatus = .inEvaluation) := by
  have state : ¬ e.state = .opened := by simpa [Entry.isOpen] using closed
  rw [decided_suspect source]
  unfold Entry.needsBank
  cases k : e.evalStatus <;> simp [state]

end Sys2Proof.Machine
end

section
/-! A reversal (R21, R47, R48): every entry takes the row of Table 3-4 it meets. -/
namespace Sys2Proof.Machine
open Sys2Proof.Safety

/-! ### What the bank and the armed positions of an entry rest on -/

/-- The bank a decision is read from rests on the banks and on which is ACTIVE (R45, R120). -/
theorem Only.decisionBank {W : List Part} {s t : State} (k : Only W s t) (banks : W.contains .banks = false)
    (active : W.contains .active = false) (e : Entry) : decisionBank t e = decisionBank s e := by
  obtain ⟨bank0, bank1⟩ := k.banks.resolve_left (Part.unnamed banks)
  obtain ⟨active, -⟩ := k.active.resolve_left (Part.unnamed active)
  have bank : ∀ id, t.tables.bank id = s.tables.bank id := by
    rintro (_ | _)
    · exact bank0
    · exact bank1
  unfold Machine.decisionBank
  rw [active, bank]

theorem mem_watchesOf {x : Tag} {s : State} {w : Watch} : w ∈ watchesOf x s ↔ w ∈ s.watches ∧ w.kind.tag = some x := by
  simp [watchesOf]

theorem mem_watches_congr {x : Tag} {s t : State} (same : watchesOf x t = watchesOf x s) {w : Watch}
    (own : w.kind.tag = some x) : w ∈ t.watches ↔ w ∈ s.watches := by
  have k : w ∈ watchesOf x t ↔ w ∈ watchesOf x s := by rw [same]
  rwa [mem_watchesOf, mem_watchesOf, and_iff_left own, and_iff_left own] at k

theorem watched_congr_of_watchesOf {x : Tag} {s t : State} (same : watchesOf x t = watchesOf x s) {kind : WatchKind}
    (own : kind.tag = some x) {p : Position} : watched t kind p ↔ watched s kind p :=
  exists_congr fun _ => ⟨fun ⟨m, k, at_⟩ => ⟨(mem_watches_congr same (k ▸ own)).mp m, k, at_⟩,
    fun ⟨m, k, at_⟩ => ⟨(mem_watches_congr same (k ▸ own)).mpr m, k, at_⟩⟩

/-- What a decision arms for an entry rests on the settings and on the entry's own positions. -/
theorem armsPositions_congr {r s t u : State} {e : Entry} {gate : Fin 6} (settings : s.settings = r.settings)
    (before : watchesOf e.tag s = watchesOf e.tag r) (after : watchesOf e.tag u = watchesOf e.tag t)
    (h : armsPositions s t e gate) : armsPositions r u e gate := by
  obtain ⟨fire, first, kept⟩ := h
  rw [settings] at fire first kept
  refine ⟨fun pending undiverted => ?_, fun undecided distance => ?_, fun stays p => ?_⟩
  · obtain ⟨armed, only⟩ := fire pending undiverted
    exact ⟨(watched_congr_of_watchesOf after rfl).mpr armed,
      fun w m kind => only w ((mem_watches_congr after (by rw [kind]; rfl)).mp m) kind⟩
  · exact (watched_congr_of_watchesOf after rfl).mpr (first undecided distance)
  · exact (watched_congr_of_watchesOf after rfl).trans
      ((kept stays p).trans (watched_congr_of_watchesOf before rfl))

/-! ### What a mark leaves of the evaluation in flight -/

/-- The link is at rest, and the evaluation in flight is that of the state before. -/
def flightKept (s t : State) : Prop := t.evaluator.inFlight = s.evaluator.inFlight ∧ linkAtRest t

theorem flightKept.trans {s t u : State} (h : flightKept s t) (k : flightKept t u) : flightKept s u :=
  ⟨k.1.trans h.1, k.2⟩

theorem Only.flightKept {W : List Part} {s t : State} (k : Only W s t) (evaluator : W.contains .evaluator = false)
    (link : W.contains .link = false) (pins : W.contains .pins = false) (rest : linkAtRest s) : flightKept s t :=
  ⟨by rw [k.evaluator.resolve_left (Part.unnamed evaluator)],
    linkAtRest_only k (Part.unnamed link) (Part.unnamed pins) rest⟩

theorem withEntry_flightKept {tag : Tag} {f : Entry → State → State} {s : State} (rest : linkAtRest s)
    (h : ∀ e, flightKept s (f e s)) : flightKept s (withEntry tag f s) := by
  unfold withEntry; split
  · exact h _
  · exact ⟨rfl, rest⟩

theorem decideAs_flightKept (c : Ctx) (d : Decision) (tag : Tag) (e : Entry) {s : State} (rest : linkAtRest s) :
    flightKept s (decideAs c d tag e s) := by
  have told : Only [.watches] (unlist tag (modifyEntry tag (fun e => e.decided d) s)) (decideAs c d tag e s) :=
    .via (markerDecided_only ..) rfl (.via (routeDecided_only ..) rfl (.refl ..))
  exact told.flightKept rfl rfl rfl (s := unlist tag (modifyEntry tag (fun e => e.decided d) s)) rest

theorem endHold_flightKept (c : Ctx) (tag : Tag) {s : State} (rest : linkAtRest s) :
    flightKept s (endHold c tag s) := by
  refine withEntry_flightKept rest fun e => ?_
  split
  · obtain ⟨quiet, rest⟩ :=
      releaseHold_keepsRest c e.bank (s := modifyEntry tag (fun e => { e with holding := false }) s) rest
    exact ⟨congrArg Evaluator.inFlight (quiet.evaluator.resolve_left (Part.unnamed rfl)), rest⟩
  · exact ⟨rfl, rest⟩

/-- A mark leaves the evaluation in flight as it is: an entry in evaluation stays in it (Table 3-4). -/
theorem markSuspect_flightKept (c : Ctx) (own : EntryFlags → EntryFlags) (tag : Tag) {s : State} (rest : linkAtRest s) :
    flightKept s (markSuspect c own tag s) := by
  have flagged : flightKept s (flagSuspect own tag s) := (flagSuspect_only ..).flightKept rfl rfl rfl rest
  refine withEntry_flightKept rest fun e => ?_
  dsimp only; split
  · exact flagged
  · split
    · have decided : flightKept s (decideEntry c .suspect tag (flagSuspect own tag s)) :=
        flagged.trans (withEntry_flightKept flagged.2 fun e => decideAs_flightKept c _ tag e flagged.2)
      exact decided.trans (endHold_flightKept c tag decided.2)
    · split
      · exact flagged.trans (decideAs_flightKept c _ tag e flagged.2)
      · exact flagged

theorem markAll_flightKept (c : Ctx) (own : EntryFlags → EntryFlags) :
    ∀ (tags : List Tag) (s : State), linkAtRest s → flightKept s (markAll c own tags s)
  | [], _, rest => ⟨rfl, rest⟩
  | tag :: tags, _, rest =>
    have first := markSuspect_flightKept c own tag rest
    first.trans (markAll_flightKept c own tags _ first.2)

/-! ### Table 3-4 for one entry -/

/-- The fresh decision a mark has for an entry (R48). -/
def suspectDecision (s : State) (e : Entry) : Decision := (decisionBank s e).decide .suspect

theorem suspectDecision_source (s : State) (e : Entry) : (suspectDecision s e).source = .suspect := rfl

/-- What the mark of the entry `e` has made of it, by the rows of Table 3-4. -/
structure Marked (own : EntryFlags → EntryFlags) (s t : State) (e : Entry) : Prop where
  opened : e.isOpen = true → findEntry e.tag t = some (e.marked own)
  undecided : e.isOpen = false → e.decision = none →
    findEntry e.tag t = some { (e.marked own).decided (suspectDecision s e) with
      holding := e.holding && decide (e.evalStatus = .inEvaluation) } ∧
    e.tag ∉ t.evaluator.list ∧ armsPositions s t e (suspectDecision s e).gate
  pending : ∀ d0, e.isOpen = false → e.decision = some d0 → e.route = .pending → e.flags.diverted = false →
    ∃ d1 : Decision, d1.source = .suspect ∧ (d0.source = .suspect → d1 = d0) ∧
      (d0.source ≠ .suspect → d1 = suspectDecision s e) ∧
      findEntry e.tag t = some ((e.marked own).decided d1) ∧ armsPositions s t e d1.gate
  settled : e.isOpen = false → e.decision.isSome = true → e.route ≠ .pending ∨ e.flags.diverted = true →
    findEntry e.tag t = some (e.marked own)

/-- What a mark has made of an entry stays when other entries are marked, before it and after. -/
theorem Marked.congr {own : EntryFlags → EntryFlags} {r s t u : State} {e : Entry} (settings : s.settings = r.settings)
    (bank : decisionBank s e = decisionBank r e) (before : watchesOf e.tag s = watchesOf e.tag r)
    (after : Apart e.tag t u) (h : Marked own s t e) : Marked own r u e := by
  have decision : suspectDecision s e = suspectDecision r e := congrArg (Bank.decide · .suspect) bank
  obtain ⟨opened, undecided, pending, settled⟩ := h
  rw [decision] at undecided pending
  have arms : ∀ {gate}, armsPositions s t e gate → armsPositions r u e gate :=
    armsPositions_congr settings before after.watches
  refine ⟨fun o => after.entry.trans (opened o), fun closed none_ => ?_, fun d0 closed some_ p n => ?_,
    fun closed some_ o => after.entry.trans (settled closed some_ o)⟩
  · obtain ⟨found, unlisted, armed⟩ := undecided closed none_
    exact ⟨after.entry.trans found, fun m => unlisted (after.listed.mp m), arms armed⟩
  · obtain ⟨d1, source, stays, fresh, found, armed⟩ := pending d0 closed some_ p n
    exact ⟨d1, source, stays, fresh, after.entry.trans found, arms armed⟩

/-- The mark of a CLOSED entry without a decision: it is decided SUSPECT, and stops holding its bank unless it is in
evaluation (R48, R49). -/
theorem markSuspect_undecided (c : Ctx) {own : EntryFlags → EntryFlags} (h : ∀ f, (own f).diverted = f.diverted)
    {s : State} {e : Entry} (found : findEntry e.tag s = some e) (rest : linkAtRest s) (closed : e.isOpen = false)
    (undecided : e.decision = none) :
    findEntry e.tag (markSuspect c own e.tag s) = some { (e.marked own).decided (suspectDecision s e) with
        holding := e.holding && decide (e.evalStatus = .inEvaluation) } ∧
      e.tag ∉ (markSuspect c own e.tag s).evaluator.list ∧
      armsPositions s (markSuspect c own e.tag s) e (suspectDecision s e).gate := by
  let m := modifyEntry e.tag (Entry.marked own) s
  have foundM : findEntry e.tag m = some (e.marked own) := findEntry_modifyEntry_self (Entry.marked_tag own) found
  have restM : linkAtRest m := rest
  have run : markSuspect c own e.tag s =
      endHold c e.tag (decideAs c (suspectDecision s e) e.tag (e.marked own) m) := by
    have decided : decideEntry c .suspect e.tag m = decideAs c (suspectDecision s e) e.tag (e.marked own) m :=
      withEntry_some foundM
    rw [← decided]
    unfold markSuspect
    rw [withEntry_some found, flagSuspect_eq]
    simp only [closed, undecided, Option.isNone_none, if_true, Bool.false_eq_true, if_false]
    rfl
  obtain ⟨foundD, unlisted⟩ := decideAs_self c (suspectDecision s e) (e.marked own) foundM
  have armed : armsPositions m (decideAs c (suspectDecision s e) e.tag (e.marked own) m) e (suspectDecision s e).gate :=
    decideAs_arms c _ e foundM rfl rfl rfl (h _).symm rfl
  obtain ⟨foundE, watches, evaluator⟩ := endHold_self c foundD (decideAs_flightKept c _ e.tag _ restM).2
  rw [run]
  refine ⟨?_, by rw [evaluator]; exact unlisted,
    armsPositions_congr (s := m) rfl rfl (by unfold watchesOf; rw [watches]) armed⟩
  have needs : ((e.marked own).decided (suspectDecision s e)).needsBank = decide (e.evalStatus = .inEvaluation) :=
    needsBank_suspect (e := e.marked own) (suspectDecision_source s e) closed
  rw [foundE, needs]
  rfl

/-- The mark of a CLOSED entry whose decision can still be replaced: it takes the SUSPECT decision of its bank, or keeps
the one it has, and its fire point is armed in its place (R48, R130). -/
theorem markSuspect_pending (c : Ctx) {own : EntryFlags → EntryFlags} (h : ∀ f, (own f).diverted = f.diverted)
    {s : State} {e : Entry} (found : findEntry e.tag s = some e) {d0 : Decision} (closed : e.isOpen = false)
    (decided : e.decision = some d0) (pending : e.route = .pending) (undiverted : e.flags.diverted = false) :
    findEntry e.tag (markSuspect c own e.tag s) = some ((e.marked own).decided (replacingDecision s e)) ∧
      armsPositions s (markSuspect c own e.tag s) e (replacingDecision s e).gate := by
  let m := modifyEntry e.tag (Entry.marked own) s
  have foundM : findEntry e.tag m = some (e.marked own) := findEntry_modifyEntry_self (Entry.marked_tag own) found
  have run : markSuspect c own e.tag s = decideAs c (replacingDecision s e) e.tag e m := by
    unfold markSuspect
    rw [withEntry_some found, flagSuspect_eq]
    simp only [closed, decided, pending, undiverted, Option.isNone_some, Bool.false_eq_true, if_false, decide_true,
      Bool.not_false, Bool.and_self, if_true]
    rfl
  rw [run]
  exact ⟨(decideAs_self c _ e foundM).1,
    armsPositions_congr (s := m) rfl rfl rfl (decideAs_arms c _ e foundM rfl rfl rfl (h _).symm rfl)⟩

/-- The decision that replaces one: the SUSPECT decision there is, or the fresh one (R48, log 26). -/
theorem replacingDecision_cases {s : State} {e : Entry} {d0 : Decision} (decided : e.decision = some d0) :
    (replacingDecision s e).source = .suspect ∧ (d0.source = .suspect → replacingDecision s e = d0) ∧
      (d0.source ≠ .suspect → replacingDecision s e = suspectDecision s e) := by
  unfold replacingDecision
  rw [decided]
  by_cases same : d0.source = .suspect
  · simp [Option.filter, same]
  · have fresh : (((some d0).filter fun d => d.source = .suspect).getD ((decisionBank s e).decide .suspect)) =
        suspectDecision s e := by simp [Option.filter, same, suspectDecision]
    rw [fresh]
    exact ⟨suspectDecision_source s e, fun k => absurd k same, fun _ => rfl⟩

/-- The mark of an entry that is ROUTED already, or diverted, sets its flags and nothing else (Table 3-4). -/
theorem markSuspect_settled {c : Ctx} {own : EntryFlags → EntryFlags} {tag : Tag} {s : State} {e : Entry}
    (found : findEntry tag s = some e) (closed : e.isOpen = false) (decided : e.decision.isSome = true)
    (settled : e.route ≠ .pending ∨ e.flags.diverted = true) :
    markSuspect c own tag s = modifyEntry tag (Entry.marked own) s := by
  have stays : ¬ (decide (e.route = .pending) && !e.flags.diverted) = true := by
    rcases settled with n | diverted
    · simp [n]
    · simp [diverted]
  unfold markSuspect
  rw [withEntry_some found, flagSuspect_eq]
  dsimp only
  rw [if_neg (by simp [closed]), if_neg (by simpa [Option.isSome_iff_ne_none] using decided), if_neg stays]

theorem markSuspect_marked (c : Ctx) {own : EntryFlags → EntryFlags} (h : ∀ f, (own f).diverted = f.diverted)
    {s : State} {e : Entry} (found : findEntry e.tag s = some e) (rest : linkAtRest s) :
    Marked own s (markSuspect c own e.tag s) e := by
  have flagged : findEntry e.tag (modifyEntry e.tag (Entry.marked own) s) = some (e.marked own) :=
    findEntry_modifyEntry_self (Entry.marked_tag own) found
  refine ⟨fun o => ?_, markSuspect_undecided c h found rest, fun d0 closed decided pending undiverted => ?_,
    fun closed decided settled => ?_⟩
  · rw [markSuspect_open found o]; exact flagged
  · obtain ⟨source, stays, fresh⟩ := replacingDecision_cases (s := s) decided
    exact ⟨_, source, stays, fresh, markSuspect_pending c h found closed decided pending undiverted⟩
  · rw [markSuspect_settled found closed decided settled]; exact flagged

/-! ### The mark of several entries -/

/-- Of several marks with distinct tags, each entry meets its own. -/
theorem markAll_marked (c : Ctx) {own : EntryFlags → EntryFlags} (h : ∀ f, (own f).diverted = f.diverted) {e : Entry} :
    ∀ (tags : List Tag) (s : State), tags.Nodup → e.tag ∈ tags → findEntry e.tag s = some e → linkAtRest s →
      Marked own s (markAll c own tags s) e
  | [], _, _, m, _, _ => by cases m
  | tag :: tags, s, nodup, m, found, rest => by
    obtain ⟨fresh, nodup⟩ := List.nodup_cons.mp nodup
    by_cases head : e.tag = tag
    · subst head
      exact (markSuspect_marked c h found rest).congr rfl rfl rfl
        (markAll_apart c own tags _ fresh (markSuspect_flightKept c own e.tag rest).2)
    · have first := markSuspect_apart head c own rest
      have later := markAll_marked c h tags (markSuspect c own tag s) nodup ((List.mem_cons.mp m).resolve_left head)
        (first.entry.trans found) first.rest
      have parts := markSuspect_only c own tag s
      exact later.congr (parts.settings.resolve_left (Part.unnamed rfl)) (parts.decisionBank rfl rfl e) first.watches
        (.refl (markAll_flightKept c own tags _ first.rest).2)

/-- What every mark brings about holds of every entry once all are marked. -/
theorem outlines_markAll (c : Ctx) {own : EntryFlags → EntryFlags} (h : ownCause own) {P : Outline → Prop}
    (marks : ∀ o : Outline, P (o.marked own)) :
    ∀ (tags : List Tag) (s : State), (∀ o ∈ outlines s, o.tag ∈ tags ∨ P o) →
      ∀ o ∈ outlines (markAll c own tags s), P o
  | [], _, i, o, m => (i o m).resolve_left (by simp)
  | tag :: tags, s, i, o, m => by
    refine outlines_markAll c h marks tags (markSuspect c own tag s) (fun o m => ?_) o m
    rw [(markSuspect_background ..).outlines, outlines_modifyEntry (outline_marked h), List.mem_map] at m
    obtain ⟨x, mx, rfl⟩ := m
    by_cases own_ : x.tag = tag
    · rw [if_pos own_]; exact .inr (marks x)
    · rw [if_neg own_]
      exact (i x mx).imp_left fun k => (List.mem_cons.mp k).resolve_left own_

/-! ### The reversal -/

/-- The flag of an entry that a reversal marks. -/
def reversedFlag (f : EntryFlags) : EntryFlags := { f with reversed := true }

/-- A reversal before its notice: the debt repaid and the flag raised (R21). -/
def reversalRaised (s : State) : State :=
  raise (Ctx.now s) .beltReversed (s.setPosition { s.position with debt := 0 })

theorem tagsWhere_true (s : State) : tagsWhere (fun _ => true) s = tagsOf s := by
  unfold tagsWhere tagsOf
  rw [List.filter_true]

theorem reversal_eq (s : State) :
    reversal s = markAll (Ctx.now s) reversedFlag (tagsOf (reversalRaised s)) (reversalRaised s) := by
  rw [← tagsWhere_true]; rfl

/-- With the link at rest nothing but debt, pins, link and flags has changed when a reversal gives its notice. -/
theorem reversalRaised_rest {s : State} (rest : linkAtRest s) :
    Only [.pins, .position, .link, .flags] s (reversalRaised (pulseLevels true s)) ∧
      linkAtRest (reversalRaised (pulseLevels true s)) := by
  have start : linkAtRest ((pulseLevels true s).setPosition { s.position with debt := 0 }) := rest
  exact ⟨.via (raise_rest start) rfl (.via (setPosition_only ..) rfl (.via (pulseLevels_only ..) rfl (.refl ..))),
    linkAtRest_raise start⟩

/-- Every entry is marked suspect and reversed (R47). -/
theorem reversal_marks_all {s : State} {x : Entry} (m : x ∈ (reversal s).tracker.sheets) :
    x.flags.suspect = true ∧ x.flags.reversed = true := by
  rw [reversal_eq] at m
  refine outlines_markAll (Ctx.now s) (own := reversedFlag) (fun _ => rfl)
    (P := fun o => o.causes.suspect = true ∧ o.causes.reversed = true) (fun _ => ⟨rfl, rfl⟩) _ (reversalRaised s)
    (fun o mo => .inl ?_) x.outline (List.mem_map_of_mem m)
  obtain ⟨e, me, rfl⟩ := List.mem_map.mp mo
  exact List.mem_map_of_mem me

/-- BELT_REVERSED is raised (R21). -/
theorem flagSet_reversal (s : State) : flagSet (reversal s) .beltReversed = true := by
  rw [reversal_eq]
  exact (foldl_calm (fun s tag => markSuspect_calm _ _ tag s) _ _).flags _ (flagSet_raise ..)

/-- With the link at rest each entry meets its own row of Table 3-4, and the evaluation in flight stays. -/
theorem reversal_marked {s : State} (d : tagsDistinct s) (rest : linkAtRest s) :
    (reversal (pulseLevels true s)).evaluator.inFlight = s.evaluator.inFlight ∧
      ∀ e ∈ s.tracker.sheets, Marked reversedFlag s (reversal (pulseLevels true s)) e := by
  obtain ⟨parts, raisedRest⟩ := reversalRaised_rest rest
  have sheets : tagsOf (reversalRaised (pulseLevels true s)) = tagsOf s := parts.tags.resolve_left (Part.unnamed rfl)
  have evaluator := parts.evaluator.resolve_left (Part.unnamed rfl)
  rw [reversal_eq, sheets]
  refine ⟨(markAll_flightKept _ _ _ _ raisedRest).1.trans (congrArg Evaluator.inFlight evaluator), fun e m => ?_⟩
  have apart := parts.apart rfl rfl rfl raisedRest e.tag
  have marked := markAll_marked (Ctx.now (pulseLevels true s)) (own := reversedFlag) (fun _ => rfl) (tagsOf s) _ d
    (List.mem_map_of_mem m) (apart.entry.trans (findEntry_self d m)) raisedRest
  exact marked.congr (parts.settings.resolve_left (Part.unnamed rfl)) (parts.decisionBank rfl rfl e) apart.watches
    (.refl (markAll_flightKept _ _ _ _ raisedRest).2)

/-- Settles O42: what all entries share by their outlines, and the rows of Table 3-4 entry by entry, each apart from the
marks of the others. -/
theorem reversalMarksEverySheet : Obligations.ReversalMarksEverySheet := by
  intro s mode debt
  have reverses : reversePulse s = reversal (pulseLevels true s) := reversePulse_reverses mode debt.ge
  have parts := reversePulse_only s
  refine ⟨reversePulse s, rfl, ?_, ?_, parts.tags.resolve_left (Part.unnamed rfl),
    parts.blind.resolve_left (Part.unnamed rfl), fun x m => ?_, fun d rest => ?_⟩
  · rw [reverses]; exact reversal_position _
  · rw [reverses]; exact flagSet_reversal _
  · rw [reverses] at m; exact reversal_marks_all m
  · obtain ⟨inFlight, rows⟩ := reversal_marked d rest
    rw [reverses]
    refine ⟨inFlight, fun e m => ⟨_, suspectDecision s e, rfl, rfl, ?_⟩⟩
    obtain ⟨opened, undecided, pending, settled⟩ := rows e m
    refine ⟨opened, fun closed none_ => ?_, fun d0 closed some_ p n => ?_, settled⟩
    · rw [decided_suspect (suspectDecision_source s e)] at undecided
      exact undecided closed none_
    · obtain ⟨d1, source, stays, fresh, found, armed⟩ := pending d0 closed some_ p n
      rw [decided_suspect source] at found
      exact ⟨d1, stays, fresh, found, armed⟩

end Sys2Proof.Machine
end

section
/-! The Sheet Queue through every command: the first free tag (R34), and the two invariants over what is tracked (R33,
R55, R92, R105, R155). -/
namespace Sys2Proof.Machine
open Sys2Proof.Safety

/-! ### The first free tag -/

/-- The search for a free tag stops at the first one, or at its bound; what it passed over is in use (R34). -/
theorem freeTag_search (used : List Tag) : ∀ (n : Nat) (t : Tag), ∃ m ≤ n,
    freeTag n used t = t + BitVec.ofNat 8 m ∧ (∀ k < m, t + BitVec.ofNat 8 k ∈ used) ∧
      (m < n → t + BitVec.ofNat 8 m ∉ used)
  | 0, t => ⟨0, le_refl _, by simp [freeTag], by simp, by simp⟩
  | n + 1, t => by
    by_cases inUse : t ∈ used
    · obtain ⟨m, le, found, passed, free⟩ := freeTag_search used n (t + 1)
      have next : ∀ k, t + 1 + BitVec.ofNat 8 k = t + BitVec.ofNat 8 (k + 1) := fun k => by
        rw [Nat.add_comm, ← BitVec.ofNat_add_ofNat, ← BitVec.add_assoc]; rfl
      refine ⟨m + 1, by omega, ?_, fun k lt => ?_, fun lt => ?_⟩
      · rw [← next, ← found, freeTag, if_pos inUse]
      · cases k with
        | zero => simpa using inUse
        | succ k => rw [← next]; exact passed k (by omega)
      · rw [← next]; exact free (by omega)
    · exact ⟨0, Nat.zero_le _, by simp [freeTag, inUse], by simp, by simpa using inUse⟩

/-- Of the first 256 values from a tag on no two are equal. -/
theorem tags_injective {t : Tag} {i j : Nat} (hi : i < 256) (hj : j < 256)
    (h : t + BitVec.ofNat 8 i = t + BitVec.ofNat 8 j) : i = j := by
  have same : (BitVec.ofNat 8 i).toNat = (BitVec.ofNat 8 j).toNat :=
    congrArg BitVec.toNat (add_left_cancel h)
  simpa [Nat.mod_eq_of_lt hi, Nat.mod_eq_of_lt hj] using same

/-- A list of fewer than `m` tags does not hold the `m` values from a tag on. -/
theorem exists_free_tag {used : List Tag} {t : Tag} {m : Nat} (le : m ≤ 256) (few : used.length < m) :
    ¬ ∀ k < m, t + BitVec.ofNat 8 k ∈ used := by
  intro all
  have distinct : ((List.range m).map fun k => t + BitVec.ofNat 8 k).Nodup :=
    List.Nodup.map_on (fun i hi j hj h => tags_injective (by simp at hi; omega) (by simp at hj; omega) h)
      List.nodup_range
  have sub : ((List.range m).map fun k => t + BitVec.ofNat 8 k) ⊆ used := by
    intro x mx
    obtain ⟨k, mk, rfl⟩ := List.mem_map.mp mx
    exact all k (List.mem_range.mp mk)
  have := (distinct.subperm sub).length_le
  simp at this; omega

/-- With fewer tags in use than the search may try, the tag it finds is free, and the ones before it are not (R34). -/
theorem freeTag_free {n : Nat} {used : List Tag} (le : n ≤ 256) (few : used.length < n) (t : Tag) :
    freeTag n used t ∉ used ∧ ∀ k < (freeTag n used t - t).toNat, t + BitVec.ofNat 8 k ∈ used := by
  obtain ⟨m, mn, found, passed, free⟩ := freeTag_search used n t
  have stopped : m < n := by
    by_contra bound
    exact exists_free_tag le few fun k lt => passed k (by omega)
  have count : (freeTag n used t - t).toNat = m := by
    have back : freeTag n used t - t = BitVec.ofNat 8 m := by rw [found]; bv_omega
    rw [back, BitVec.toNat_ofNat, Nat.mod_eq_of_lt (by omega)]
  exact ⟨found ▸ free stopped, fun k lt => passed k (count ▸ lt)⟩

/-! ### A new entry -/

/-- The tag of the next entry (R34). -/
def nextTag (s : State) : Tag := freeTag Config.sheetQueueMax (tagsOf s) s.tracker.tagCounter

/-- The entry an OPEN creates, with the banks as they stand (R35). -/
def nextEntry (p : Position) (first last : Lane) (s : State) : Entry := newEntry s.tables (nextTag s) p first last

theorem nextTag_fresh {s : State} (room : s.tracker.sheets.length < Config.sheetQueueMax) :
    nextTag s ∉ tagsOf s ∧
      ∀ k < (nextTag s - s.tracker.tagCounter).toNat, s.tracker.tagCounter + BitVec.ofNat 8 k ∈ tagsOf s :=
  freeTag_free (by decide) (by simpa [tagsOf] using room) _

theorem nextTag_congr {s t : State} (tags : tagsOf t = tagsOf s) (counter : t.tracker.tagCounter = s.tracker.tagCounter) :
    nextTag t = nextTag s := by unfold nextTag; rw [tags, counter]

/-- Once the pending commit has taken effect, the entry joins the tail, with its hold and its two positions (R34, R35,
R37, R113). -/
theorem openEntry_eq (c : Ctx) (p : Position) (first last : Lane) (s : State) :
    openEntry c p first last s =
      (let u := commitIfPending c s
       let e := nextEntry p first last u
       let v := (u.setTracker { u.tracker with sheets := u.tracker.sheets ++ [e], tagCounter := e.tag + 1 }).setTables
         (u.tables.setHolders e.bank (u.tables.holders e.bank + 1))
       arm c (.decision e.tag) (p + bu v.settings.decisionDistance) (arm c (.overlength e.tag) (p + maxSheet v) v)) := rfl

theorem commitIfPending_tags (c : Ctx) (s : State) : tagsOf (commitIfPending c s) = tagsOf s :=
  (commitIfPending_only c s).tags.resolve_left (Part.unnamed rfl)

theorem openEntry_tags (c : Ctx) (p : Position) (first last : Lane) (s : State) :
    tagsOf (openEntry c p first last s) = tagsOf s ++ [nextTag s] := by
  have tags := commitIfPending_tags c s
  have next : nextTag (commitIfPending c s) = nextTag s :=
    nextTag_congr tags ((commitIfPending_only c s).tagCounter.resolve_left (Part.unnamed rfl))
  rw [← next, ← tags, openEntry_eq]
  simp [tagsOf, arm, nextEntry, newEntry]

/-- An OPEN that becomes an entry leaves the Blind Span, its interval and the evaluator (R35, R37). -/
theorem openEntry_leaves (c : Ctx) (p : Position) (first last : Lane) (s : State) :
    Only (.tags :: .holdings :: .tagCounter :: .active :: .commitPending :: .holds :: raiseParts) s
      (openEntry c p first last s) := by
  refine .via (arm_only ..) rfl (.via (arm_only ..) rfl (.via (setHolders_only ..) rfl
    (Only.trans ((commitIfPending_only c s).mono rfl) ?_)))
  constructor <;> simp [holdingsOf]

/-! ### The queue: 24 entries with distinct tags -/

theorem Only.tagsKept {W : List Part} {s t : State} (k : Only W s t) (tags : W.contains .tags = false) :
    tagsOf t = tagsOf s := k.tags.resolve_left (Part.unnamed tags)

/-- The Sheet Queue is kept as far as its tags go. -/
theorem queueKept_iff (s : State) : queueKept s ↔ (tagsOf s).length ≤ Config.sheetQueueMax ∧ (tagsOf s).Nodup := by
  simp [queueKept, tagsDistinct, tagsOf]

theorem queueKept_sublist {s t : State} (sub : (tagsOf t).Sublist (tagsOf s)) (h : queueKept s) : queueKept t := by
  rw [queueKept_iff] at h ⊢
  exact ⟨sub.length_le.trans h.1, sub.nodup h.2⟩

theorem Only.queueKept {W : List Part} {s t : State} (k : Only W s t) (tags : W.contains .tags = false)
    (h : queueKept s) : queueKept t := queueKept_sublist (k.tagsKept tags ▸ .refl _) h

theorem queueKept_empty {s : State} (h : s.tracker.sheets = []) : queueKept s := by
  simp [Safety.queueKept, tagsDistinct, tagsOf, h]

theorem openEntry_queueKept (c : Ctx) (p : Position) (first last : Lane) {s : State}
    (room : s.tracker.sheets.length < Config.sheetQueueMax) (h : queueKept s) :
    queueKept (openEntry c p first last s) := by
  rw [queueKept_iff] at h ⊢
  rw [openEntry_tags]
  refine ⟨by simpa [tagsOf] using room, List.nodup_append.mpr ⟨h.2, List.nodup_singleton _, ?_⟩⟩
  rintro a ma b mb rfl
  exact (nextTag_fresh room).1 (List.mem_singleton.mp mb ▸ ma)

/-- The tags left when an entry is removed (R50). -/
theorem removeEntry_tags (tag : Tag) (s : State) : tagsOf (removeEntry tag s) = (tagsOf s).filter (fun x => x ≠ tag) := by
  simp [tagsOf, removeEntry, disarmTag, unlist, List.filter_map, Function.comp_def]

/-- What follows the removal of an entry, up to its evaluation, leaves the tags. -/
theorem afterRemoval_only (c : Ctx) (e : Entry) (s : State) :
    Only (.marker :: .entries :: .evaluator :: .holds :: raiseParts) s (abandonEvaluation e.tag
      (let u := markerRetired e.tag (routeRetired c e s)
       if e.holding then releaseHold c e.bank u else u)) := by
  have told : Only (.marker :: .entries :: .evaluator :: .holds :: raiseParts) s
      (markerRetired e.tag (routeRetired c e s)) :=
    .via (markerRetired_only ..) rfl (.via (routeRetired_only ..) rfl (.refl ..))
  refine .via (abandonEvaluation_only ..) rfl ?_
  dsimp only; split
  · exact .via (releaseHold_only ..) rfl told
  · exact told

/-- What a flush does besides dropping the sheets, the span and what the evaluator holds (R55, R127, R145, R155). -/
theorem flush_after (c : Ctx) (s : State) :
    Only (.holds :: .active :: .commitPending :: .interval :: .marker :: raiseParts)
      ((s.setTracker { s.tracker with sheets := [], blind := none }).setEvaluator ⟨[], none⟩) (flush c s) := by
  refine Only.trans (t := endStamp (flushRoute (flushTables c
    ((s.setTracker { s.tracker with sheets := [], blind := none }).setEvaluator ⟨[], none⟩)))) ?_ ?_
  · exact .via (endStamp_only _) rfl (.via (flushRoute_only _) rfl (.via (flushTables_only ..) rfl (.refl ..)))
  · unfold flush; constructor <;> simp [holdingsOf]

theorem flush_sheets (c : Ctx) (s : State) : (flush c s).tracker.sheets = [] :=
  List.map_eq_nil_iff.mp ((flush_after c s).tags.resolve_left (Part.unnamed rfl))

theorem stable_queueKept : Stable queueKept where
  other k := k.queueKept rfl
  modify _ f s keeps := (modifyEntry_only _ f s keeps).queueKept rfl
  offered r s := (offer_only r s).queueKept rfl
  begun s := (tryBegin_only s).queueKept rfl
  withdrawn tag s := (withdraw_only tag s).queueKept rfl
  fired tag w s := (firePoint_only tag w s).queueKept rfl
  completed b s := (completeSending_only b s).queueKept rfl
  pinsKept p s _ := (setPins_only s p).queueKept rfl
  pinsRead p s := (sampleLevels_only p s).queueKept rfl
  bankReleased c s := (releaseBank_only c s).queueKept rfl
  holdEnded c tag s := (endHold_only c tag s).queueKept rfl
  committed c s := (commitEffect_only c s).queueKept rfl
  unlisted tag s := (unlist_only tag s).queueKept rfl
  listed _ s _ := (setEvaluator_only s _).queueKept rfl
  started s := (startEvaluation_only s).queueKept rfl
  idled s := (evaluatorIdle_only s).queueKept rfl
  stampSet v s _ := (setMarker_only s v).queueKept rfl
  spanSet _ s _ := (setBlind_only s _).queueKept rfl
  intervalSet v s _ := (setInterval_only s v).queueKept rfl
  spanCleared s h := (intervalEnds_only _).queueKept rfl ((setBlind_only s none).queueKept rfl h)
  moded m s _ _ := (setMode_only m s).queueKept rfl
  standby s _ _ := (setMode_only .standby s).queueKept rfl
  testEnded _ h := h
  testHeld _ _ _ h := h
  opened c p f l _ _ room := openEntry_queueKept c p f l room
  retired c e s _ h := (afterRemoval_only c e _).queueKept rfl
    (queueKept_sublist (removeEntry_tags e.tag s ▸ List.filter_sublist) h)
  flushed c s _ := queueKept_empty (flush_sheets c s)

theorem resetStable_queueKept : ResetStable queueKept where
  reset _ _ _ := queueKept_empty rfl
  power _ _ := queueKept_empty rfl

theorem endLoading_queueKept (o : Option OptionBlock) (p : Pins) {s : State} (h : queueKept s) :
    queueKept (endLoading o p s) := (endLoading_only o p s).queueKept rfl h

/-- Settles O9: tags are added only by an OPEN with room, which takes a free one. -/
theorem stepKeepsTheSheetQueue : Obligations.StepKeepsTheSheetQueue := by
  intro s t h run
  exact stable_queueKept.step resetStable_queueKept run (fun o p _ _ => endLoading_queueKept o p) h

/-! ### What is tracked -/

/-- The parts of State that `trackingKept` looks at. -/
abbrev trackedParts : List Part := [.tags, .evaluator, .marker, .blind, .interval, .mode]

theorem sheets_nil_iff (s : State) : s.tracker.sheets = [] ↔ tagsOf s = [] := List.map_eq_nil_iff.symm

/-- `trackingKept` looks at the tags, the evaluator, the stamp, the span, the interval and the mode. -/
theorem trackingKept_congr {s t : State} (tags : tagsOf t = tagsOf s) (evaluator : t.evaluator = s.evaluator)
    (marker : t.marker = s.marker) (blind : t.tracker.blind = s.tracker.blind) (interval : t.interval = s.interval)
    (mode : t.agent.mode = s.agent.mode) (h : trackingKept s) : trackingKept t := by
  unfold trackingKept at h ⊢
  rw [sheets_nil_iff] at h ⊢
  rw [tags, evaluator, marker, blind, interval, mode]
  exact h

theorem Only.trackingKept {W : List Part} {s t : State} (k : Only W s t)
    (sub : (trackedParts.all fun p => !W.contains p) = true) (h : trackingKept s) : trackingKept t := by
  simp only [List.all_cons, List.all_nil, Bool.and_true, Bool.and_eq_true, Bool.not_eq_true'] at sub
  obtain ⟨tags, evaluator, marker, blind, interval, mode⟩ := sub
  exact trackingKept_congr (k.tagsKept tags) (k.evaluator.resolve_left (Part.unnamed evaluator))
    (k.marker.resolve_left (Part.unnamed marker)) (k.blind.resolve_left (Part.unnamed blind))
    (k.interval.resolve_left (Part.unnamed interval)) (k.mode.resolve_left (Part.unnamed mode)) h

/-- With nothing tracked anywhere the mode is free. -/
theorem trackingKept_idle {s : State} (sheets : s.tracker.sheets = []) (blind : s.tracker.blind = none)
    (evaluator : s.evaluator = ⟨[], none⟩) (marker : s.marker = none) (interval : s.interval.phase = .ended) :
    trackingKept s := by
  simp [trackingKept, sheets, blind, evaluator, marker, interval]

/-! ### The evaluator, the stamp and the tags -/

theorem trackingKept_setEvaluator {s : State} {v : Evaluator} (list : ∀ tag ∈ v.list, tag ∈ tagsOf s)
    (inFlight : ∀ f, v.inFlight = some f → f.tag ∈ tagsOf s) (h : trackingKept s) : trackingKept (s.setEvaluator v) :=
  ⟨list, inFlight, h.2.2⟩

/-- An evaluation starts, or nothing changes (R93). -/
theorem startEvaluation_cases (s : State) :
    startEvaluation s = s ∨
    ∃ tag rest e, s.evaluator = ⟨tag :: rest, none⟩ ∧ findEntry tag s = some e ∧
      startEvaluation s = modifyEntry tag (fun e => { e with evalStatus := .inEvaluation })
        (s.setEvaluator ⟨tag :: rest, some ⟨tag, e.bank⟩⟩) := by
  cases ev : s.evaluator with
  | mk list inFlight =>
    cases inFlight with
    | some f => left; simp [startEvaluation, ev]
    | none =>
      cases list with
      | nil => left; simp [startEvaluation, ev]
      | cons tag rest =>
        cases found : findEntry tag s with
        | none => left; simp [startEvaluation, ev, withEntry, found]
        | some e => right; exact ⟨tag, rest, e, rfl, found, by simp [startEvaluation, ev, withEntry_some found]⟩

theorem startEvaluation_trackingKept {s : State} (h : trackingKept s) : trackingKept (startEvaluation s) := by
  rcases startEvaluation_cases s with k | ⟨tag, rest, e, ev, -, k⟩
  · rw [k]; exact h
  · rw [k]
    have list := h.1
    rw [ev] at list
    have taken : trackingKept (s.setEvaluator ⟨tag :: rest, some ⟨tag, e.bank⟩⟩) :=
      trackingKept_setEvaluator list (fun f same => by cases same; exact list tag (.head _)) h
    exact Only.trackingKept (modifyEntry_only tag _ _ fun _ => ⟨rfl, rfl, rfl⟩) rfl taken

/-- What is tracked is kept when it is with the evaluator IDLE and the evaluation in flight names an entry. -/
theorem trackingKept_of_idle {s : State} (inFlight : ∀ f, s.evaluator.inFlight = some f → f.tag ∈ tagsOf s)
    (h : trackingKept (evaluatorIdle s)) : trackingKept s := ⟨h.1, inFlight, h.2.2⟩

/-- An evaluation of a removed entry is abandoned (R105). -/
theorem abandonEvaluation_trackingKept {tag : Tag} {s : State}
    (inFlight : ∀ f, s.evaluator.inFlight = some f → f.tag ≠ tag → f.tag ∈ tagsOf s)
    (h : trackingKept (evaluatorIdle s)) : trackingKept (abandonEvaluation tag s) := by
  unfold abandonEvaluation
  cases flight : s.evaluator.inFlight with
  | none => exact trackingKept_of_idle (fun f k => by rw [flight] at k; cases k) h
  | some f =>
    dsimp only; split
    · exact startEvaluation_trackingKept h
    · next other =>
      exact trackingKept_of_idle (fun g k => by rw [flight] at k; cases k; exact inFlight f flight other) h

theorem markerRetired_marker (tag : Tag) (s : State) :
    (markerRetired tag s).marker = s.marker.filter fun p => p.tag ≠ tag := by
  unfold markerRetired
  cases stamp : s.marker with
  | none => simp [stamp]
  | some p =>
    dsimp only
    by_cases own : p.tag = tag
    · rw [if_pos own, Option.filter_some, if_neg (by simp [own])]; rfl
    · rw [if_neg own, Option.filter_some, if_pos (by simp [own]), stamp]

/-- Removing an entry takes it off the list; its stamp ends, and the other tags stay tracked (R50, R92, R155). -/
theorem removal_trackingKept (tag : Tag) {s t : State} (tags : tagsOf t = (tagsOf s).filter (fun x => x ≠ tag))
    (evaluator : t.evaluator = { s.evaluator with list := s.evaluator.list.filter fun x => x ≠ tag })
    (marker : t.marker = s.marker.filter fun p => p.tag ≠ tag) (blind : t.tracker.blind = s.tracker.blind)
    (interval : t.interval = s.interval) (mode : t.agent.mode = s.agent.mode) (h : trackingKept s) :
    (∀ f, t.evaluator.inFlight = some f → f.tag ≠ tag → f.tag ∈ tagsOf t) ∧ trackingKept (evaluatorIdle t) := by
  obtain ⟨list, inFlight, stamp, ended, idle⟩ := h
  rw [evaluator, tags]
  refine ⟨fun f k other => List.mem_filter.mpr ⟨inFlight f k, by simpa using other⟩, ?_⟩
  have kept : tagsOf (evaluatorIdle t) = (tagsOf s).filter (fun x => x ≠ tag) := tags
  refine ⟨fun x m => ?_, fun f k => (by cases k), fun p k => ?_, fun k => ?_, fun k => ?_⟩
  · rw [kept]
    have m : x ∈ t.evaluator.list := m
    rw [evaluator] at m
    obtain ⟨mx, other⟩ := List.mem_filter.mp m
    exact List.mem_filter.mpr ⟨list x mx, other⟩
  · rw [kept]
    have k : t.marker = some p := k
    rw [marker, Option.filter_eq_some_iff] at k
    exact List.mem_filter.mpr ⟨stamp p k.1, k.2⟩
  · exact (congrArg Interval.phase interval).trans (ended (blind.symm.trans k))
  · obtain ⟨sheets, none_⟩ := idle (by rw [← mode]; exact k)
    refine ⟨?_, blind.trans none_⟩
    rw [sheets_nil_iff, kept, (sheets_nil_iff s).mp sheets]; rfl

theorem retired_trackingKept (c : Ctx) (e : Entry) {s : State} (h : trackingKept s) :
    trackingKept (abandonEvaluation e.tag
      (let u := markerRetired e.tag (routeRetired c e (removeEntry e.tag s))
       if e.holding then releaseHold c e.bank u else u)) := by
  have removed := removeEntry_only e.tag s
  have routed := routeRetired_only c e (removeEntry e.tag s)
  have stamped := markerRetired_only e.tag (routeRetired c e (removeEntry e.tag s))
  have held : Only (.holds :: raiseParts) (markerRetired e.tag (routeRetired c e (removeEntry e.tag s)))
      (let u := markerRetired e.tag (routeRetired c e (removeEntry e.tag s))
       if e.holding then releaseHold c e.bank u else u) := by
    dsimp only; split
    · exact releaseHold_only ..
    · exact Only.refl ..
  have after := routed.mono (W := .holds :: .marker :: raiseParts) rfl |>.trans (stamped.mono rfl) |>.trans (held.mono rfl)
  have all : Only (.tags :: .evaluator :: .holdings :: .holds :: .marker :: raiseParts) s _ :=
    (removed.mono rfl).trans (after.mono rfl)
  obtain ⟨inFlight, idle⟩ := removal_trackingKept e.tag
    ((after.tagsKept rfl).trans (removeEntry_tags e.tag s)) (after.evaluator.resolve_left (Part.unnamed rfl))
    (by rw [held.marker.resolve_left (Part.unnamed rfl), markerRetired_marker,
          routed.marker.resolve_left (Part.unnamed rfl), removed.marker.resolve_left (Part.unnamed rfl)])
    (all.blind.resolve_left (Part.unnamed rfl)) (all.interval.resolve_left (Part.unnamed rfl))
    (all.mode.resolve_left (Part.unnamed rfl)) h
  exact abandonEvaluation_trackingKept inFlight idle

/-! ### The operations an invariant has to survive -/

theorem flush_trackingKept (c : Ctx) (s : State) : trackingKept (setMode .standby (flush c s)) :=
  trackingKept_idle (flush_sheets c s) ((flush_after c s).blind.resolve_left (Part.unnamed rfl))
    ((flush_after c s).evaluator.resolve_left (Part.unnamed rfl)) rfl rfl

/-- A mode in which sheets may be tracked asks nothing of what is tracked. -/
theorem trackingKept_setMode {m : Mode} {s : State} (goes : m = .streaming ∨ m = .draining) (h : trackingKept s) :
    trackingKept (setMode m s) := by
  obtain ⟨list, inFlight, stamp, ended, -⟩ := h
  refine ⟨list, inFlight, stamp, ended, fun k => ?_⟩
  have k : m = .loading ∨ m = .standby := k
  rcases goes with rfl | rfl <;> simp at k

theorem endLoading_trackingKept (o : Option OptionBlock) (p : Pins) {s : State} (h : trackingKept s) :
    trackingKept (endLoading o p s) := by
  by_cases loading : s.agent.mode = .loading
  · have parts := endLoading_only o p s
    obtain ⟨sheets, blind⟩ := h.2.2.2.2 (.inl loading)
    have standby : trackingKept (setMode (endLoading o p s).agent.mode s) :=
      ⟨h.1, h.2.1, h.2.2.1, h.2.2.2.1, fun _ => ⟨sheets, blind⟩⟩
    exact trackingKept_congr (parts.tagsKept rfl) (parts.evaluator.resolve_left (Part.unnamed rfl))
      (parts.marker.resolve_left (Part.unnamed rfl)) (parts.blind.resolve_left (Part.unnamed rfl))
      (parts.interval.resolve_left (Part.unnamed rfl))
      (s := setMode (endLoading o p s).agent.mode s) rfl standby
  · unfold endLoading; rw [if_neg loading]; exact h

theorem openEntry_trackingKept (c : Ctx) (p : Position) (first last : Lane) {s : State} (m : s.agent.mode = .streaming)
    (h : trackingKept s) : trackingKept (openEntry c p first last s) := by
  have parts := openEntry_leaves c p first last s
  have grows : ∀ tag ∈ tagsOf s, tag ∈ tagsOf (openEntry c p first last s) := by
    rw [openEntry_tags]; exact fun _ m => List.mem_append_left _ m
  obtain ⟨list, inFlight, stamp, ended, -⟩ := h
  have evaluator := parts.evaluator.resolve_left (Part.unnamed rfl)
  unfold trackingKept
  rw [evaluator, parts.marker.resolve_left (Part.unnamed rfl), parts.blind.resolve_left (Part.unnamed rfl),
    parts.interval.resolve_left (Part.unnamed rfl), parts.mode.resolve_left (Part.unnamed rfl), m]
  exact ⟨fun tag m => grows _ (list tag m), fun f k => grows _ (inFlight f k), fun p k => grows _ (stamp p k), ended,
    fun k => by simp at k⟩

theorem stable_trackingKept : Stable trackingKept where
  other k := k.trackingKept rfl
  modify _ f s keeps := (modifyEntry_only _ f s keeps).trackingKept rfl
  offered r s := (offer_only r s).trackingKept rfl
  begun s := (tryBegin_only s).trackingKept rfl
  withdrawn tag s := (withdraw_only tag s).trackingKept rfl
  fired tag w s := (firePoint_only tag w s).trackingKept rfl
  completed b s := (completeSending_only b s).trackingKept rfl
  pinsKept p s _ := (setPins_only s p).trackingKept rfl
  pinsRead p s := (sampleLevels_only p s).trackingKept rfl
  bankReleased c s := (releaseBank_only c s).trackingKept rfl
  holdEnded c tag s := (endHold_only c tag s).trackingKept rfl
  committed c s := (commitEffect_only c s).trackingKept rfl
  unlisted _ _ h := trackingKept_setEvaluator (fun x m => h.1 x (List.mem_of_mem_filter m)) h.2.1 h
  listed tag s m h := trackingKept_setEvaluator (fun x mx => (List.mem_append.mp mx).elim (h.1 x) fun k =>
    List.mem_singleton.mp k ▸ m) h.2.1 h
  started _ := startEvaluation_trackingKept
  idled _ h := trackingKept_setEvaluator h.1 (fun _ k => by cases k) h
  stampSet v s named h := by
    refine ⟨h.1, h.2.1, fun p k => ?_, h.2.2.2⟩
    rcases named p k with m | ⟨q, stamp, same⟩
    · exact m
    · exact same ▸ h.2.2.1 q stamp
  spanSet b s tracked h := by
    obtain ⟨list, inFlight, stamp, ended, idle⟩ := h
    refine ⟨list, inFlight, stamp, fun k => (by cases k), fun k => ?_⟩
    have k : s.agent.mode = .loading ∨ s.agent.mode = .standby := k
    rcases tracked with some_ | t
    · rw [(idle k).2] at some_; cases some_
    · rcases t with t | t <;> (rw [t] at k; simp at k)
  intervalSet v s still h := by
    obtain ⟨list, inFlight, stamp, ended, idle⟩ := h
    refine ⟨list, inFlight, stamp, fun k => ?_, idle⟩
    rcases still with some_ | end_ | going
    · have k : s.tracker.blind = none := k
      rw [k] at some_; cases some_
    · exact end_
    · exact absurd (ended k) going
  spanCleared s h := ⟨h.1, h.2.1, h.2.2.1, fun _ => rfl, fun k => ⟨(h.2.2.2.2 k).1, rfl⟩⟩
  moded _ _ goes _ := trackingKept_setMode goes
  standby s sheets blind h := ⟨h.1, h.2.1, h.2.2.1, h.2.2.2.1, fun _ => ⟨sheets, blind⟩⟩
  testEnded _ h := h
  testHeld _ _ _ h := h
  opened c p f l _ m _ := openEntry_trackingKept c p f l m
  retired c e _ _ := retired_trackingKept c e
  flushed c s _ := flush_trackingKept c s

theorem resetStable_trackingKept : ResetStable trackingKept where
  reset _ _ _ := trackingKept_idle rfl rfl rfl rfl rfl
  power _ _ := trackingKept_idle rfl rfl rfl rfl rfl

/-- Settles O12: what names an entry is dropped with it, and LOADING and STANDBY are entered with nothing tracked. -/
theorem stepKeepsTracking : Obligations.StepKeepsTracking := by
  intro s t h run
  exact stable_trackingKept.step resetStable_trackingKept run (fun o p _ _ => endLoading_trackingKept o p) h

/-! ### The machine after reset -/

/-- Settles O8: after reset nothing is tracked, queued, tested or held. -/
theorem resetMeetsTheInvariants : Obligations.ResetMeetsTheInvariants := by
  have idle : trackingKept State.reset := trackingKept_idle rfl rfl rfl rfl rfl
  have conditioner : 0 < (1 : Word).toNat ∧ (1 : Word).toNat ≤ 4096 := by decide
  exact ⟨queueKept_empty rfl, ⟨Nat.zero_le _, Nat.zero_le _⟩, fun _ _ => rfl, fun _ => ⟨rfl, rfl, rfl, rfl⟩,
    Nat.zero_le _, conditioner, testKept_none rfl, idle, List.nodup_nil, rfl, rfl, by decide⟩

end Sys2Proof.Machine
end

section
/-! What a raised flag and an offered record may bring about besides, with the link at rest or not: a ROUTE record that
begins sending (R134). And what the banks and the flags come to in the events that raise one. -/
namespace Sys2Proof.Machine
open Sys2Proof.Safety

/-! ### A ROUTE record that begins sending -/

/-- An entry but for its route progress. -/
def Entry.unrouted (e : Entry) : Entry := { e with route := .pending }

theorem Entry.unrouted_eq_iff {x e : Entry} : x.unrouted = e.unrouted ↔ x = { e with route := x.route } := by
  constructor
  · intro h
    cases x; cases e
    simpa [Entry.unrouted] using h
  · intro h; rw [h]; rfl

/-- Whether a position is a stale expiry. -/
def WatchKind.isStale : WatchKind → Bool
  | .stale _ => true
  | _ => false

/-- Of the sheets only route progress may have changed, and of the positions only stale expiries may be gone. -/
structure Sends (s t : State) : Prop where
  entries : t.tracker.sheets.map Entry.unrouted = s.tracker.sheets.map Entry.unrouted
  watches : t.watches.filter (fun w => !w.kind.isStale) = s.watches.filter fun w => !w.kind.isStale
  fewer : t.watches.Sublist s.watches

theorem Sends.refl (s : State) : Sends s s := ⟨rfl, rfl, .refl _⟩

theorem Sends.trans {s t u : State} (h : Sends s t) (k : Sends t u) : Sends s u :=
  ⟨k.entries.trans h.entries, k.watches.trans h.watches, k.fewer.trans h.fewer⟩

theorem Only.sends {W : List Part} {s t : State} (k : Only W s t) (entries : W.contains .entries = false)
    (watches : W.contains .watches = false) : Sends s t := by
  have e := k.entries.resolve_left (Part.unnamed entries)
  have w := k.watches.resolve_left (Part.unnamed watches)
  exact ⟨by rw [e], by rw [w], w ▸ .refl _⟩

theorem routeSent_sends (r : OutRecord) (s : State) : Sends s (routeSent r s) := by
  cases r with
  | route tag gate grade leading =>
    refine ⟨?_, ?_, List.filter_sublist⟩
    · simp only [routeSent, disarm, modifyEntry, State.setWatches_tracker, State.setTracker_tracker, List.map_map]
      refine List.map_congr_left fun e _ => ?_
      by_cases own : e.tag = tag <;> simp [own, Entry.unrouted]
    · simp only [routeSent, disarm, modifyEntry, State.setWatches_watches, State.setTracker_watches, List.filter_filter]
      refine List.filter_congr fun w _ => ?_
      by_cases stale : w.kind = .stale tag <;> simp [stale, WatchKind.isStale]
  | _ => exact .refl s

theorem tryBegin_sends (s : State) : Sends s (tryBegin s) := by
  rcases tryBegin_cases s with k | ⟨r, rest, -, -, k⟩
  · rw [k.1]; exact .refl s
  · rw [k]; exact ((setLink_only s _).sends rfl rfl).trans (routeSent_sends ..)

theorem setFlag_sends (f : Flag) (s : State) : Sends s (setFlag f s) := (setFlag_only f s).sends rfl rfl

theorem offer_sends (r : OutRecord) (s : State) : Sends s (offer r s) := by
  unfold offer; split
  · exact ((enqueue_only r s).sends rfl rfl).trans (tryBegin_sends _)
  · exact setFlag_sends ..

theorem raise_sends (c : Ctx) (f : Flag) (s : State) : Sends s (raise c f s) := by
  unfold raise; split
  · exact .refl s
  · dsimp only; split
    · exact (setFlag_sends f s).trans (offer_sends ..)
    · exact setFlag_sends f s

theorem Sends.unrouted {s t : State} (h : Sends s t) (tag : Tag) :
    (Machine.findEntry tag t).map Entry.unrouted = (Machine.findEntry tag s).map Entry.unrouted := by
  have look : ∀ u : State, (Machine.findEntry tag u).map Entry.unrouted =
      (u.tracker.sheets.map Entry.unrouted).find? fun e => e.tag = tag := fun u => by
    rw [List.find?_map]; rfl
  rw [look, look, h.entries]

/-- The entry of a tag, but for its route progress. -/
theorem Sends.findEntry {s t : State} (h : Sends s t) {tag : Tag} {e : Entry} (found : findEntry tag s = some e) :
    ∃ r, Machine.findEntry tag t = some { e with route := r } := by
  have same := h.unrouted tag
  rw [found] at same
  obtain ⟨x, foundX, k⟩ := Option.map_eq_some_iff.mp same
  exact ⟨x.route, by rw [foundX, ← Entry.unrouted_eq_iff.mp k]⟩

theorem Sends.watched_iff {s t : State} (h : Sends s t) {k : WatchKind} (n : k.isStale = false) {p : Position} :
    watched t k p ↔ watched s k p := by
  have mem : ∀ w : Watch, w.kind = k → (w ∈ t.watches ↔ w ∈ s.watches) := fun w own => by
    have same := congrArg (w ∈ ·) h.watches
    simpa [own, n] using same
  exact exists_congr fun w => ⟨fun ⟨m, kind, pos⟩ => ⟨(mem w kind).mp m, kind, pos⟩,
    fun ⟨m, kind, pos⟩ => ⟨(mem w kind).mpr m, kind, pos⟩⟩

theorem Sends.unwatched {s t : State} (h : Sends s t) {k : WatchKind} (u : unwatched s k) : unwatched t k :=
  fun w m => u w (h.fewer.subset m)

/-! ### The banks -/

/-- What names no item of the Table Store leaves it. -/
theorem Only.tables {W : List Part} {s t : State} (k : Only W s t)
    (sub : (([.banks, .copyInFlight, .active, .commitPending, .holds] : List Part).all fun p => !W.contains p) = true) :
    t.tables = s.tables := by
  simp only [List.all_cons, List.all_nil, Bool.and_true, Bool.and_eq_true, Bool.not_eq_true'] at sub
  obtain ⟨banks, copy, active, commit, holds⟩ := sub
  have a := k.banks.resolve_left (Part.unnamed banks)
  have b := k.copyInFlight.resolve_left (Part.unnamed copy)
  have d := k.active.resolve_left (Part.unnamed active)
  have e := k.commitPending.resolve_left (Part.unnamed commit)
  have f := k.holds.resolve_left (Part.unnamed holds)
  cases h : t.tables; cases h' : s.tables; simp_all

theorem raise_tables (c : Ctx) (f : Flag) (s : State) : (raise c f s).tables = s.tables := (raise_only c f s).tables rfl

/-- A RETIRING bank without a holder is released, or nothing changes (R114). -/
theorem releaseBank_cases (c : Ctx) (s : State) :
    (s.tables.otherState = .retiring ∧ s.tables.holders s.tables.other = 0 ∧
      releaseBank c s = raise c .bankReleased (s.setTables { s.tables with otherState := .staging })) ∨
    (¬ (s.tables.otherState = .retiring ∧ s.tables.holders s.tables.other = 0) ∧ releaseBank c s = s) := by
  by_cases free : s.tables.otherState = .retiring ∧ s.tables.holders s.tables.other = 0
  · exact .inl ⟨free.1, free.2, if_pos (by simpa using free)⟩
  · exact .inr ⟨free, if_neg (by simpa using free)⟩

theorem releaseBank_sends (c : Ctx) (s : State) : Sends s (releaseBank c s) := by
  rcases releaseBank_cases c s with ⟨-, -, k⟩ | ⟨-, k⟩ <;> rw [k]
  · exact Sends.trans (t := s.setTables { s.tables with otherState := .staging }) ⟨rfl, rfl, .refl _⟩ (raise_sends ..)
  · exact .refl s

theorem releaseHold_sends (c : Ctx) (id : BankId) (s : State) : Sends s (releaseHold c id s) := by
  have counted := (setHolders_only s id (s.tables.holders id - 1)).sends rfl rfl
  unfold releaseHold; dsimp only; split
  · exact counted
  · exact counted.trans (releaseBank_sends ..)

theorem commitEffect_sends (c : Ctx) (s : State) : Sends s (commitEffect c s) :=
  Sends.trans (t := s.setTables { s.tables with
    active := s.tables.other
    otherState := if 0 < s.tables.holders s.tables.active then .retiring else .staging
    generation := s.tables.generation + 1
    commitPending := false }) ⟨rfl, rfl, .refl _⟩ (raise_sends ..)

theorem commitIfPending_sends (c : Ctx) (s : State) : Sends s (commitIfPending c s) := by
  unfold commitIfPending; split
  · exact commitEffect_sends ..
  · exact .refl s

theorem commitIfQueueEmpty_sends (c : Ctx) (s : State) : Sends s (commitIfQueueEmpty c s) := by
  unfold commitIfQueueEmpty; split
  · exact commitIfPending_sends ..
  · exact .refl s

/-- A commit that takes effect, by the items it sets (R120). -/
theorem commitEffect_tables (c : Ctx) (s : State) : (commitEffect c s).tables =
    { s.tables with
      active := s.tables.other
      otherState := if 0 < s.tables.holders s.tables.active then .retiring else .staging
      generation := s.tables.generation + 1
      commitPending := false } := raise_tables ..

theorem commitIfPending_pending (c : Ctx) {s : State} (h : s.tables.commitPending = true) :
    commitIfPending c s = commitEffect c s := if_pos h

theorem commitIfPending_none (c : Ctx) {s : State} (h : s.tables.commitPending = false) : commitIfPending c s = s :=
  if_neg (by simp [h])

theorem commitIfPending_commits (c : Ctx) (s : State) : commitTaken s (commitIfPending c s) := by
  constructor <;> intro h
  · rw [commitIfPending_pending c h, commitEffect_tables]
    exact ⟨rfl, rfl, rfl, flagSet_raise ..⟩
  · rw [commitIfPending_none c h]; exact ⟨rfl, rfl, h⟩

/-- What leaves ACTIVE bank and pending commit, and no flag cleared, leaves a commit taken before or after it. -/
theorem commitTaken_after {W : List Part} {s t u : State} (k : Only W t u) (active : W.contains .active = false)
    (pending : W.contains .commitPending = false) (flags : ∀ f, flagSet t f = true → flagSet u f = true)
    (h : commitTaken s t) : commitTaken s u := by
  obtain ⟨a, g⟩ := k.active.resolve_left (Part.unnamed active)
  have p := k.commitPending.resolve_left (Part.unnamed pending)
  obtain ⟨taken, none_⟩ := h
  unfold commitTaken
  rw [a, g, p]
  exact ⟨fun c => ⟨(taken c).1, (taken c).2.1, (taken c).2.2.1, flags _ (taken c).2.2.2⟩, none_⟩

theorem commitTaken_before {W : List Part} {s t u : State} (k : Only W s t) (active : W.contains .active = false)
    (pending : W.contains .commitPending = false) (h : commitTaken t u) : commitTaken s u := by
  obtain ⟨a, g⟩ := k.active.resolve_left (Part.unnamed active)
  have p := k.commitPending.resolve_left (Part.unnamed pending)
  have other : t.tables.other = s.tables.other := congrArg BankId.other a
  unfold commitTaken at h
  rwa [a, g, p, other] at h

/-! ### The flags -/

theorem flagSet_offer_other (r : OutRecord) {f : Flag} (o : f ≠ .outDropped) (s : State) :
    flagSet (offer r s) f = flagSet s f := (flagSet_offer r s f).resolve_right fun k => o k.1

theorem flagSet_releaseBank_other (c : Ctx) {f : Flag} (n : f ≠ .bankReleased) (o : f ≠ .outDropped) (s : State) :
    flagSet (releaseBank c s) f = flagSet s f := by
  rcases releaseBank_cases c s with ⟨-, -, k⟩ | ⟨-, k⟩ <;> rw [k]
  exact flagSet_raise_other _ _ _ _ n o

theorem flagSet_releaseHold_other (c : Ctx) (id : BankId) {f : Flag} (n : f ≠ .bankReleased) (o : f ≠ .outDropped)
    (s : State) : flagSet (releaseHold c id s) f = flagSet s f := by
  have counted := (setHolders_only s id (s.tables.holders id - 1)).flagSet (Part.unnamed rfl) f
  unfold releaseHold; dsimp only; split
  · exact counted
  · exact (flagSet_releaseBank_other c n o _).trans counted

theorem flagSet_commitIfPending_other (c : Ctx) {f : Flag} (n : f ≠ .commitDone) (o : f ≠ .outDropped) (s : State) :
    flagSet (commitIfPending c s) f = flagSet s f := by
  unfold commitIfPending; split
  · exact flagSet_raise_other _ _ _ _ n o
  · rfl

theorem flagSet_commitIfQueueEmpty_other (c : Ctx) {f : Flag} (n : f ≠ .commitDone) (o : f ≠ .outDropped) (s : State) :
    flagSet (commitIfQueueEmpty c s) f = flagSet s f := by
  unfold commitIfQueueEmpty; split
  · exact flagSet_commitIfPending_other c n o s
  · rfl

/-! ### The drain-end notice -/

/-- A notice where DRAINING does not end changes nothing (R168). -/
theorem giveNotice_stays (n : Bool) (c : Ctx) {s : State}
    (h : s.agent.mode ≠ .draining ∨ s.tracker.sheets ≠ [] ∨ s.tracker.blind.isSome = true) : giveNotice n c s = s := by
  have stays : drainEnd c s = s := by
    rcases h with m | tracked
    · exact if_neg (by simp [m])
    · exact drainEnd_tracked c tracked
  unfold giveNotice; split
  · exact stays
  · rfl

/-- A notice in DRAINING with nothing tracked ends it where it is taken (R54, R168, log 28). -/
theorem giveNotice_ends (n : Bool) (c : Ctx) {s : State} (m : s.agent.mode = .draining) (sheets : s.tracker.sheets = [])
    (blind : s.tracker.blind = none) :
    (giveNotice n c s).agent.mode = (if n then .standby else .draining) ∧
      flagSet (giveNotice n c s) .drained = (flagSet s .drained || n) := by
  cases n with
  | false => exact ⟨m, by simp [giveNotice]⟩
  | true =>
    have ends : giveNotice true c s = raise c .drained (enterStandby s) := drainEnd_ends c m sheets blind
    rw [ends]
    exact ⟨(raise_only ..).mode.resolve_left (Part.unnamed rfl), by simp [flagSet_raise]⟩

theorem flagSet_giveNotice_other (n : Bool) (c : Ctx) {f : Flag} (d : f ≠ .drained) (o : f ≠ .outDropped) (s : State) :
    flagSet (giveNotice n c s) f = flagSet s f := by
  unfold giveNotice; split
  · unfold drainEnd; split
    · exact (flagSet_raise_other _ _ _ _ d o).trans ((enterStandby_only s).flagSet (Part.unnamed rfl) f)
    · rfl
  · rfl

/-! ### A record accepted -/

/-- A traffic record for the part that passes its field check is stamped and acted on (R8, R11, R15). -/
theorem exec_accepted {c : Instr} {s : State} (h : receives s) (row : traffic s c = some (s.scan.deckValue, true)) :
    exec c s = .next (trafficAct c s.position.belt (armSilence s)) := by
  rw [exec_traffic row, takeTraffic_accepted h]

theorem traffic_open {s : State} {first last : Lane} (ok : spanOk s first last = true) (offset : Byte) :
    traffic s (.openSheet s.scan.deckValue first last offset) = some (s.scan.deckValue, true) :=
  congrArg (fun b => some (s.scan.deckValue, b)) ok

theorem traffic_close {s : State} {first last : Lane} (ok : spanOk s first last = true) (offset : Byte) :
    traffic s (.closeSheet s.scan.deckValue first last offset) = some (s.scan.deckValue, true) :=
  congrArg (fun b => some (s.scan.deckValue, b)) ok

end Sys2Proof.Machine
end

section
/-! Resets and the flush (R55, R58, R124, R127, R129, R145, R155, R169): what each leaves of every block. -/
namespace Sys2Proof.Machine
open Sys2Proof.Safety

/-! ### Warm resets -/

/-- The Table Store after a warm reset: nothing held, pending or in flight (R124, R129). -/
theorem warmReset_tables (n : Nat) (t : TableStore) :
    (t.warmReset n).active = t.active ∧ (t.warmReset n).generation = t.generation ∧
      (t.warmReset n).otherState = .staging ∧ (t.warmReset n).holders0 = 0 ∧ (t.warmReset n).holders1 = 0 ∧
      (t.warmReset n).commitPending = false ∧ (t.warmReset n).copyInFlight = false :=
  ⟨(tables_warmReset_keeps n t).1, (tables_warmReset_keeps n t).2, rfl, rfl, rfl, rfl, rfl⟩

/-- With no flag set and nothing tracked, tested or stamped no output line is asserted (R138, R148, R176). -/
theorem outputs_off {s : State} (flags : s.attention.flags = 0) (test : s.agent.lineTest = none)
    (sheets : s.tracker.sheets = []) (interval : s.interval.phase = .ended) (marker : s.marker = none) :
    alertAsserted s = false ∧ divertAsserted s = false ∧ nozzleLines s = 0 := by
  refine ⟨?_, ?_, ?_⟩
  · simp [alertAsserted, flags]
  · simp [divertAsserted, divertWanted, test, sheets, interval]
  · simp [nozzleLines, markerNozzles, test, marker]

/-- Both causes of a warm reset come to one function (R58, R173, R181, R182). -/
theorem exec_warmReset {s : State} {h : ReqHeader} {c : Instr} {cause : Cause} {number : Option Byte}
    (k : (c = .pinReset ∧ cause = .pin ∧ number = none ∧
        (s.agent.mode ≠ .loading ∨ s.attention.startup.cause ≠ .power)) ∨
      (c = .restart h ∧ cause = .command ∧ number = some h.number ∧ takes h s)) :
    exec c s = .next (warmReset ⟨cause, number, some s.agent.mode, some s.tracker.sheets.length, false⟩ s) := by
  rcases k with ⟨rfl, rfl, rfl, outside⟩ | ⟨rfl, rfl, rfl, taken⟩
  · have other : ¬ (decide (s.agent.mode = .loading) && decide (s.attention.startup.cause = .power)) = true := by
      simpa [Classical.or_iff_not_imp_left] using outside
    exact congrArg Host.Outcome.next (if_neg other)
  · exact congrArg Host.Outcome.next (takeRequest_silent taken rfl)

/-- Settles O58: the values of Table 11-4, field by field of the one function. -/
theorem warmResetKeepsAndClears : Obligations.WarmResetKeepsAndClears := by
  intro s h c cause number k
  obtain ⟨active, generation, other, holders0, holders1, commit, copy⟩ := warmReset_tables s.draws s.tables
  obtain ⟨alert, divert, nozzles⟩ := outputs_off
    (s := warmReset ⟨cause, number, some s.agent.mode, some s.tracker.sheets.length, false⟩ s) rfl rfl rfl rfl rfl
  exact ⟨_, exec_warmReset k, rfl, rfl, rfl, rfl, rfl, rfl, rfl, rfl, rfl, rfl, rfl, rfl, rfl, rfl, rfl, rfl, alert,
    divert, nozzles, rfl, rfl, rfl, active, generation, other, holders0, holders1, commit, copy⟩

/-! ### The Table Store's part of a flush -/

/-- Every hold ended, the RETIRING bank released and the pending commit in effect, no hold of its own left (R127). -/
theorem flushTables_tables (c : Ctx) (s : State) :
    (flushTables c s).tables.holders0 = 0 ∧ (flushTables c s).tables.holders1 = 0 ∧
      (flushTables c s).tables.otherState = .staging ∧ (flushTables c s).tables.commitPending = false ∧
      (s.tables.commitPending = true → (flushTables c s).tables.active = s.tables.other) := by
  let u := s.setTables { s.tables with holders0 := 0, holders1 := 0 }
  have unheld : ∀ id, u.tables.holders id = 0 := by rintro (_ | _) <;> rfl
  have released : (releaseBank c u).tables = { u.tables with otherState := .staging } := by
    rcases releaseBank_cases c u with ⟨-, -, k⟩ | ⟨held, k⟩
    · rw [k]; exact raise_tables ..
    · have staging : u.tables.otherState = .staging := by
        cases other : u.tables.otherState with
        | staging => rfl
        | retiring => exact absurd ⟨other, unheld _⟩ held
      rw [k, ← staging]
  have run : flushTables c s = commitIfPending c (releaseBank c u) := rfl
  cases pending : s.tables.commitPending with
  | false =>
    rw [run, commitIfPending_none c (by rw [released]; exact pending), released]
    exact ⟨rfl, rfl, rfl, pending, fun k => by cases k⟩
  | true =>
    rw [run, commitIfPending_pending c (by rw [released]; exact pending), commitEffect_tables, released]
    have none_ : ¬ 0 < TableStore.holders { u.tables with otherState := .staging } u.tables.active := by
      have := unheld u.tables.active
      cases u.tables.active <;> exact Nat.not_lt_zero _
    exact ⟨rfl, rfl, if_neg none_, rfl, fun _ => rfl⟩

/-- The flags of a flush: COMMIT_DONE for a pending commit, BANK_RELEASED for a RETIRING bank, no other but OUT_DROPPED
(R114, R120, R127). -/
theorem flushTables_flags (c : Ctx) (s : State) :
    (s.tables.commitPending = true → flagSet (flushTables c s) .commitDone = true) ∧
      (s.tables.otherState = .retiring → flagSet (flushTables c s) .bankReleased = true) ∧
      ∀ f, f ≠ .commitDone → f ≠ .bankReleased → f ≠ .outDropped → flagSet (flushTables c s) f = flagSet s f := by
  let u := s.setTables { s.tables with holders0 := 0, holders1 := 0 }
  have run : flushTables c s = commitIfPending c (releaseBank c u) := rfl
  have pending : (releaseBank c u).tables.commitPending = s.tables.commitPending :=
    (releaseBank_only c u).commitPending.resolve_left (Part.unnamed rfl)
  rw [run]
  refine ⟨fun k => ?_, fun k => ?_, fun f n m o => ?_⟩
  · rw [commitIfPending_pending c (pending.trans k)]; exact flagSet_raise ..
  · refine (commitIfPending_background c _).flags _ ?_
    have free : u.tables.holders u.tables.other = 0 := by cases u.tables.other <;> rfl
    rcases releaseBank_cases c u with ⟨-, -, k⟩ | ⟨held, -⟩
    · rw [k]; exact flagSet_raise ..
    · exact absurd ⟨k, free⟩ held
  · exact (flagSet_commitIfPending_other c n o _).trans (flagSet_releaseBank_other c m o u)

/-! ### The flush -/

/-- The state in which the blocks have dropped their sheets, and the Table Store follows (R169). -/
def dropped (s : State) : State :=
  (s.setTracker { s.tracker with sheets := [], blind := none }).setEvaluator ⟨[], none⟩

/-- A flush but for the mode is the Table Store's part, and the parts of the Route Scheduler and the Marker Driver. -/
theorem flush_eq (c : Ctx) (s : State) :
    flush c s = (endStamp (flushRoute (flushTables c (dropped s)))).setWatches [] := rfl

/-- A flush ends the stamp and the interval, and no position stays watched (R55, R145, R155). -/
theorem flush_ends (c : Ctx) (s : State) :
    (flush c s).watches = [] ∧ (flush c s).marker = none ∧ (flush c s).interval.phase = .ended := by
  rw [flush_eq]
  exact ⟨State.setWatches_watches .., rfl, rfl⟩

theorem flush_routes (c : Ctx) (s : State) : ∀ r ∈ (flush c s).link.queue, r.isRoute = false := by
  have queue : (flush c s).link.queue = (flushTables c (dropped s)).link.queue.filter fun r => !r.isRoute := rfl
  rw [queue]
  intro r m
  simpa using (List.mem_filter.mp m).2

theorem flush_afterTables (c : Ctx) (s : State) :
    Only [.link, .watches, .interval, .marker] (flushTables c (dropped s)) (flush c s) := by
  refine Only.trans (t := endStamp (flushRoute (flushTables c (dropped s)))) ?_ ?_
  · exact .via (endStamp_only _) rfl (.via (flushRoute_only _) rfl (.refl ..))
  · rw [flush_eq]; constructor <;> simp [holdingsOf]

/-- A REPLY waits or begins sending; no ROUTE record comes with it, and nothing is watched anew (R134, R158). -/
theorem answered_routes {h : ReqHeader} {a : Answer} {s u : State} (none_ : ∀ r ∈ u.link.queue, r.isRoute = false) :
    ∀ r ∈ (answered h a s u).link.queue, r.isRoute = false := by
  have offered : ∀ r ∈ (sendReply h a u).link.queue, r.isRoute = false := by
    unfold sendReply offer
    split
    · have queued : ∀ r ∈ (enqueue (.reply h.number u.agent.station a.status a.values) u).link.queue,
          r.isRoute = false := by
        intro r m
        rcases List.mem_append.mp m with m | m
        · exact none_ r m
        · rw [List.mem_singleton.mp m]; rfl
      rcases tryBegin_cases (enqueue (.reply h.number u.agent.station a.status a.values) u) with k | ⟨r, rest, l, -, k⟩
      · unfold place; rw [k.1]; exact queued
      · unfold place; rw [k, (routeSent_only ..).link.resolve_left (Part.unnamed rfl)]
        exact fun x m => queued x (by rw [l]; exact .tail _ m)
    · exact none_
  unfold answered; split
  · exact offered
  · exact none_

theorem answered_sends (h : ReqHeader) (a : Answer) (s u : State) : Sends u (answered h a s u) := by
  unfold answered; split
  · exact offer_sends ..
  · exact .refl u

theorem flagSet_answered_other (h : ReqHeader) (a : Answer) (s : State) {f : Flag} (o : f ≠ .outDropped) (u : State) :
    flagSet (answered h a s u) f = flagSet u f := by
  unfold answered; split
  · exact flagSet_offer_other _ o u
  · rfl

/-- A Mode request for STANDBY_FLUSH while sheets are tracked (R166, R169). -/
theorem modeFlush_tracks {s : State} (m : tracks s) :
    modeRequest 3 s = (setMode .standby (flush (Ctx.now s) s),
      some ⟨.done, [1, BitVec.ofNat 16 s.tracker.sheets.length]⟩) := by
  have run : modeRequest 3 s = modeFlush s := rfl
  rw [run]
  unfold modeFlush
  rcases m with m | m <;> (rw [m]; rfl)

/-- What a REPLY leaves of a part in which nothing is tracked. -/
theorem answered_idle {h : ReqHeader} {a : Answer} {s u t : State} (k : t = answered h a s u)
    (sheets : u.tracker.sheets = []) (watches : u.watches = []) :
    t.tracker.sheets = [] ∧ t.watches = [] ∧ t.agent.mode = u.agent.mode ∧ t.tracker.blind = u.tracker.blind ∧
      t.tracker.tagCounter = u.tracker.tagCounter ∧ t.evaluator = u.evaluator ∧ t.marker = u.marker ∧
      t.interval = u.interval ∧ t.tables = u.tables ∧ t.attention.grades = u.attention.grades ∧
      t.settings = u.settings ∧ t.scan.rejected = u.scan.rejected := by
  subst k
  have parts := answered_only h a s u
  refine ⟨?_, ?_, parts.mode.resolve_left (Part.unnamed rfl), parts.blind.resolve_left (Part.unnamed rfl),
    parts.tagCounter.resolve_left (Part.unnamed rfl), parts.evaluator.resolve_left (Part.unnamed rfl),
    parts.marker.resolve_left (Part.unnamed rfl), parts.interval.resolve_left (Part.unnamed rfl), parts.tables rfl,
    parts.grades.resolve_left (Part.unnamed rfl), parts.settings.resolve_left (Part.unnamed rfl),
    parts.rejected.resolve_left (Part.unnamed rfl)⟩
  · rw [sheets_nil_iff, parts.tagsKept rfl, ← sheets_nil_iff]; exact sheets
  · exact List.sublist_nil.mp (watches ▸ (answered_sends h a s u).fewer)

/-- The mode alone is another. -/
theorem setMode_leaves (m : Mode) (s : State) : (setMode m s).tracker = s.tracker ∧ (setMode m s).watches = s.watches ∧
    (setMode m s).evaluator = s.evaluator ∧ (setMode m s).marker = s.marker ∧ (setMode m s).interval = s.interval ∧
    (setMode m s).tables = s.tables ∧ (setMode m s).attention = s.attention ∧ (setMode m s).settings = s.settings ∧
    (setMode m s).scan = s.scan ∧ (setMode m s).link = s.link ∧ (setMode m s).agent.station = s.agent.station :=
  ⟨rfl, rfl, rfl, rfl, rfl, rfl, rfl, rfl, rfl, rfl, rfl⟩

/-- Settles O54: block by block, and then what the REPLY leaves of it. -/
theorem flushDropsEverything : Obligations.FlushDropsEverything := by
  intro s h taken m _
  obtain ⟨f, flushed⟩ : ∃ f, f = flush (Ctx.now s) s := ⟨_, rfl⟩
  obtain ⟨t, replied⟩ : ∃ t, t = answered h ⟨.done, [1, BitVec.ofNat 16 s.tracker.sheets.length]⟩ s
    (setMode .standby f) := ⟨_, rfl⟩
  have run : exec (.modeStandbyFlush h) s = .next t := by
    rw [replied, flushed]
    exact congrArg Host.Outcome.next (takeRequest_answer taken (modeFlush_tracks m))
  have after : Only _ (dropped s) f := flushed ▸ flush_after (Ctx.now s) s
  have tables : f.tables = (flushTables (Ctx.now s) (dropped s)).tables :=
    flushed ▸ (flush_afterTables (Ctx.now s) s).tables rfl
  have sheetsEnd : f.tracker.sheets = [] := flushed ▸ flush_sheets (Ctx.now s) s
  obtain ⟨watchesEnd, markerEnd, intervalEnd⟩ : f.watches = [] ∧ f.marker = none ∧ f.interval.phase = .ended :=
    flushed ▸ flush_ends (Ctx.now s) s
  have routes : ∀ r ∈ f.link.queue, r.isRoute = false := flushed ▸ flush_routes (Ctx.now s) s
  have flags : ∀ g, g ≠ .outDropped → flagSet t g = flagSet (flushTables (Ctx.now s) (dropped s)) g := fun g o => by
    rw [replied, flagSet_answered_other h _ s o, (setMode_only ..).flagSet (Part.unnamed rfl), flushed]
    exact (flush_afterTables (Ctx.now s) s).flagSet (Part.unnamed rfl) g
  obtain ⟨holders0, holders1, other, pending, active⟩ := flushTables_tables (Ctx.now s) (dropped s)
  obtain ⟨commitDone, released, kept⟩ := flushTables_flags (Ctx.now s) (dropped s)
  obtain ⟨trackerS, watchesS, evaluatorS, markerS, intervalS, tablesS, attentionS, settingsS, scanS, linkS, stationS⟩ :=
    setMode_leaves .standby f
  obtain ⟨sheets, watches, mode, blind, counter, evaluator, marker, interval, banks, grades, settings, rejected⟩ :=
    answered_idle replied (by rw [trackerS]; exact sheetsEnd) (by rw [watchesS]; exact watchesEnd)
  have routesAfter : ∀ r ∈ t.link.queue, r.isRoute = false := replied ▸ answered_routes (linkS.symm ▸ routes)
  refine ⟨t, _, run, replied, ?_, linkS.symm ▸ routes, mode, sheets, ?_⟩
  · rw [stationS]; exact (after.options.resolve_left (Part.unnamed rfl)).1
  rw [banks, blind, counter, evaluator, marker, interval, grades, settings, rejected, tablesS, trackerS, evaluatorS,
    markerS, intervalS, attentionS, settingsS, scanS, tables]
  refine ⟨after.blind.resolve_left (Part.unnamed rfl), after.tagCounter.resolve_left (Part.unnamed rfl),
    after.evaluator.resolve_left (Part.unnamed rfl), watches, markerEnd, intervalEnd, holders0, holders1, other, pending,
    routesAfter, after.grades.resolve_left (Part.unnamed rfl), after.settings.resolve_left (Part.unnamed rfl),
    after.rejected.resolve_left (Part.unnamed rfl), ?_, fun k => ⟨active k, ?_⟩, fun k => ?_⟩
  · exact (flags _ (by decide)).trans (kept _ (by decide) (by decide) (by decide))
  · exact (flags _ (by decide)).trans (commitDone k)
  · exact (flags _ (by decide)).trans (released k)

end Sys2Proof.Machine
end

section
/-! The Blind Span (R38, R41, R51 to R54, R139, R140), records that match no sheet (R39, R41), and an OPEN without a
conflict (R34 to R38). -/
namespace Sys2Proof.Machine
open Sys2Proof.Safety

/-! ### Sealing and clearing -/

/-- The end a span is sealed with at a position: the later of the end it has, if it has one, and the position (R52,
R53). -/
def BlindSpan.endAt (b : BlindSpan) (p : Position) : Position :=
  match b.stop with
  | none => p
  | some x => if before x p then p else x

/-- A span that is sealed: its end and its count, its clearing and the closing of its interval armed, no forced seal left
(R52, R53, R140). -/
theorem sealSpan_seals (c : Ctx) (b : BlindSpan) (stop : Position) (s : State) :
    (sealSpan c b stop s).tracker.blind = some { b with outstanding := 0, stop := some stop, sealState := .sealed } ∧
      unwatched (sealSpan c b stop s) .forcedSeal ∧
      watched (sealSpan c b stop s) .clearing (stop + bu s.settings.divertDistance) ∧
      watched (sealSpan c b stop s) .intervalClosing (stop + bu s.settings.divertDistance) := by
  refine ⟨rfl, unwatched_arm (by simp) ?_, watched_arm_mono (watched_disarm (by simp) (watched_arm ..)), watched_arm ..⟩
  intro w m
  exact unwatched_arm (by simp) (unwatched_disarm _ _) w (List.mem_of_mem_filter m)

/-- The forced-seal position of an UNSEALED span (R53). -/
theorem forcedSeal_unsealed {s : State} {b : BlindSpan} (present : s.tracker.blind = some b)
    (unsealed : b.sealState = .unsealed) (w : Watch) :
    forcedSeal w s = sealSpan (Ctx.at .tracker w.pos) b (b.endAt w.pos) s := by
  unfold forcedSeal
  rw [present]
  exact if_pos unsealed

/-- The clearing position of a SEALED span (R54). -/
theorem clearSpan_sealed {s : State} {b : BlindSpan} (present : s.tracker.blind = some b)
    (sealed_ : b.sealState = .sealed) (n : Bool) (w : Watch) :
    clearSpan n w s = giveNotice n (Ctx.at .tracker w.pos)
      (intervalEnds (s.setTracker { s.tracker with blind := none })) := by
  unfold clearSpan
  rw [present]
  exact if_pos sealed_

/-- Settles O34: each position of the span in the one branch its premises leave. -/
theorem blindSpanIsSealedAndCleared : Obligations.BlindSpanIsSealedAndCleared := by
  intro s w b present
  refine ⟨fun due unsealed => ?_, fun due sealed_ => ?_⟩
  · have run := forcedSeal_unsealed (s := dropWatch w s) present unsealed w
    obtain ⟨blind, -, clearing, closing⟩ := sealSpan_seals (Ctx.at .tracker w.pos) b (b.endAt w.pos) (dropWatch w s)
    rw [← run] at blind clearing closing
    exact ⟨_, b.endAt w.pos, congrArg Host.Outcome.next (takeNamed_due due), rfl, blind, clearing, closing⟩
  · let u := draw (dropWatch w s)
    let v := intervalEnds (u.setTracker { u.tracker with blind := none })
    have run : withNotice clearSpan w (dropWatch w s) =
        giveNotice (Config.freeNotice s.draws) (Ctx.at .tracker w.pos) v :=
      clearSpan_sealed (s := u) present sealed_ _ w
    have notice := giveNotice_only (Config.freeNotice s.draws) (Ctx.at .tracker w.pos) v
    rw [← run] at notice
    refine ⟨_, congrArg Host.Outcome.next (takeNamed_due due), ?_, ?_, ?_, fun m sheets => ?_, fun stays => ?_⟩
    · exact notice.blind.resolve_left (Part.unnamed rfl)
    · exact congrArg Interval.phase (notice.interval.resolve_left (Part.unnamed rfl))
    · exact notice.tagCounter.resolve_left (Part.unnamed rfl)
    · rw [run]; exact giveNotice_ends _ _ (s := v) m sheets rfl
    · rw [run, giveNotice_stays _ _ (s := v) (stays.imp_right .inl)]; exact ⟨rfl, rfl⟩

/-! ### A CLOSE that matches no entry -/

/-- A CLOSE whose first lane no OPEN entry has finds none (R40). -/
theorem find_first_none {first : Lane} {s : State} (none_ : ∀ e ∈ s.tracker.sheets, e.isOpen = true → e.first ≠ first) :
    s.tracker.sheets.find? (fun e => e.isOpen && e.first = first) = none := by
  rw [List.find?_eq_none]
  intro e m k
  simp only [Bool.and_eq_true, decide_eq_true_eq] at k
  exact none_ e m k.1 k.2

/-- While blind sheets are outstanding it is a blind close (R41). -/
theorem takeClose_blind {first : Lane} {s : State} {b : BlindSpan}
    (none_ : ∀ e ∈ s.tracker.sheets, e.isOpen = true → e.first ≠ first) (present : s.tracker.blind = some b)
    (outstanding : 0 < b.outstanding) (last : Lane) (offset : Byte) (stamp : Position) :
    takeClose first last offset stamp s = blindClose (Ctx.now s) b (placed s stamp offset) s := by
  unfold takeClose
  dsimp only
  rw [find_first_none none_, present]
  exact if_pos outstanding

/-- Otherwise ORPHAN is raised (R41). -/
theorem takeClose_orphan {first : Lane} {s : State} (none_ : ∀ e ∈ s.tracker.sheets, e.isOpen = true → e.first ≠ first)
    (blind : blindOutstanding s = false) (last : Lane) (offset : Byte) (stamp : Position) :
    takeClose first last offset stamp s = raise (Ctx.now s) .orphan s := by
  unfold blindOutstanding at blind
  unfold takeClose
  dsimp only
  rw [find_first_none none_]
  cases present : s.tracker.blind with
  | none => rfl
  | some b =>
    rw [present] at blind
    exact if_neg (by simpa using blind)

/-- A blind close counts down (R52). -/
theorem blindClose_counts (c : Ctx) {b : BlindSpan} (more : 1 < b.outstanding) (p : Position) (s : State) :
    blindClose c b p s = s.setTracker { s.tracker with
      blind := some { b with outstanding := b.outstanding - 1, stop := some (b.endAt p) } } := if_neg (by omega)

/-- The last blind close seals the span (R52). -/
theorem blindClose_seals (c : Ctx) {b : BlindSpan} (last : b.outstanding ≤ 1) (p : Position) (s : State) :
    blindClose c b p s = sealSpan c b (b.endAt p) s := if_pos last

/-- Settles O28: the count is above 1 or it is 1. -/
theorem blindCloseSealsAtZero : Obligations.BlindCloseSealsAtZero := by
  intro s b first last offset taken ok none_ present outstanding
  obtain ⟨p, trailing⟩ : ∃ p, p = placed s s.position.belt offset := ⟨_, rfl⟩
  have run : exec (.closeSheet s.scan.deckValue first last offset) s =
      .next (blindClose (Ctx.now (armSilence s)) b p (armSilence s)) := by
    rw [exec_accepted taken (traffic_close ok offset), trailing]
    exact congrArg Host.Outcome.next (takeClose_blind (s := armSilence s) none_ present outstanding ..)
  have leaves := blindClose_only (Ctx.now (armSilence s)) b p (armSilence s)
  rw [← trailing]
  refine ⟨_, b.endAt p, run, rfl, leaves.entries.resolve_left (Part.unnamed rfl),
    leaves.attention (Part.unnamed rfl) (Part.unnamed rfl) (Part.unnamed rfl), fun more => ?_, fun one => ?_⟩
  · rw [blindClose_counts _ more]; exact ⟨rfl, rfl⟩
  · rw [blindClose_seals _ one.le]; exact sealSpan_seals ..

/-! ### Attribution -/

theorem covers_iff (e : Entry) (lane : Lane) :
    (e.isOpen && e.covers lane) = true ↔ e.state = .opened ∧ e.first.toNat ≤ lane.toNat ∧ lane.toNat ≤ e.last.toNat := by
  simp [Entry.isOpen, Entry.covers, BitVec.le_def]

/-- An entry that a record is attributed to is OPEN and covers its lane (R39). -/
theorem attributedTo_some {lane : Lane} {s : State} {e : Entry} (h : attributedTo lane s = some e) :
    e ∈ s.tracker.sheets ∧ e.state = .opened ∧ e.first.toNat ≤ lane.toNat ∧ lane.toNat ≤ e.last.toNat :=
  by
  unfold attributedTo at h
  exact ⟨List.mem_of_find?_eq_some h, (covers_iff e lane).mp (List.find?_some (p := fun e : Entry => e.isOpen && e.covers lane) h)⟩

theorem attributedTo_none {lane : Lane} {s : State} : attributedTo lane s = none ↔
    ∀ e ∈ s.tracker.sheets, ¬ (e.state = .opened ∧ e.first.toNat ≤ lane.toNat ∧ lane.toNat ≤ e.last.toNat) := by
  unfold attributedTo
  rw [List.find?_eq_none]
  exact forall₂_congr fun e _ => not_congr (covers_iff e lane)

/-- A record that matches no entry, with the link at rest: silent, or ORPHAN, and no sheet is touched (R39, R41). -/
theorem unattributed_outcome {s : State} (rest : linkAtRest s) :
    (unattributed s).tracker = s.tracker ∧
      (blindOutstanding s = true → (unattributed s).attention = s.attention) ∧
      (blindOutstanding s = false → raises [.orphan] s (unattributed s)) := by
  cases outstanding : blindOutstanding s with
  | true =>
    have run : unattributed s = s := if_pos outstanding
    rw [run]
    exact ⟨rfl, fun _ => rfl, fun k => by cases k⟩
  | false =>
    have run : unattributed s = raise (Ctx.now s) .orphan s := if_neg (by simp [outstanding])
    rw [run]
    exact ⟨(raise_keepsRest rest).1.quiet.1, fun k => (by cases k), fun _ => raises_raise ..⟩

/-- Settles O22: attribution is a search for the first OPEN entry of the lane, and no match is `unattributed`. -/
theorem unattributedRecords : Obligations.UnattributedRecords := by
  refine ⟨fun s lane => ⟨fun e => attributedTo_some, attributedTo_none⟩, ?_⟩
  intro s lane first last kind along across raw temperature offset taken rest
  have outcome := unattributed_outcome (armSilence_rest rest)
  refine ⟨fun none_ ok => ?_, fun none_ ok => ?_, fun none_ ok blind => ?_⟩
  · have row : traffic s (.feature s.scan.deckValue lane kind along across offset) = some (s.scan.deckValue, true) :=
      congrArg (fun b => some (s.scan.deckValue, b)) ok
    have run : takeFeature lane kind along across offset s.position.belt (armSilence s) = unattributed (armSilence s) := by
      have none_ : attributedTo lane (armSilence s) = none := none_
      unfold takeFeature; rw [none_]
    refine ⟨_, exec_accepted taken row, ?_⟩
    rw [← run] at outcome
    exact outcome
  · have row : traffic s (.moist s.scan.deckValue lane raw temperature) = some (s.scan.deckValue, true) :=
      congrArg (fun b => some (s.scan.deckValue, b)) ok
    have run : takeMoist lane raw temperature (armSilence s) = unattributed (armSilence s) := by
      have none_ : attributedTo lane (armSilence s) = none := none_
      unfold takeMoist; rw [none_]
    refine ⟨_, exec_accepted taken row, ?_⟩
    rw [← run] at outcome
    exact outcome
  · have run := takeClose_orphan (s := armSilence s) none_ blind last offset s.position.belt
    have raised : (raise (Ctx.now (armSilence s)) .orphan (armSilence s)).tracker = s.tracker ∧
        raises [.orphan] s (raise (Ctx.now (armSilence s)) .orphan (armSilence s)) :=
      ⟨(raise_keepsRest (armSilence_rest rest)).1.quiet.1, raises_raise _ _ (armSilence s)⟩
    rw [← run] at raised
    exact ⟨_, exec_accepted taken (traffic_close ok offset), raised⟩

/-! ### A blind open -/

/-- A blind open with no Blind Span present creates one (R51, R139). -/
theorem blindOpen_creates (c : Ctx) (p : Position) {s : State} (absent : s.tracker.blind = none) :
    blindOpen c p s = intervalCreated c p (raise c .blind (arm c .forcedSeal (p + maxSheet s)
      (s.setTracker { s.tracker with blind := some ⟨p, none, 1, p, .unsealed⟩ }))) := by
  unfold blindOpen; rw [absent]; rfl

/-- The span with a sheet more, open-ended again (R51). -/
def BlindSpan.extended (p : Position) (b : BlindSpan) : BlindSpan :=
  { b with outstanding := satInc 255 b.outstanding, latest := p, sealState := .unsealed }

/-- The span extended, its forced seal armed anew (R51, R53). -/
def spanExtended (c : Ctx) (p : Position) (b : BlindSpan) (s : State) : State :=
  arm c .forcedSeal (p + maxSheet s)
    (disarm .forcedSeal (s.setTracker { s.tracker with blind := some (b.extended p) }))

/-- A blind open extends the span there is, and unseals a SEALED one (R51, R139). -/
theorem blindOpen_extends (c : Ctx) (p : Position) {s : State} {b : BlindSpan} (present : s.tracker.blind = some b) :
    blindOpen c p s =
      if b.sealState = .sealed then intervalUnsealed (raise c .blind (disarm .clearing (spanExtended c p b s)))
      else spanExtended c p b s := by
  unfold blindOpen; rw [present]; rfl

/-- With the link at rest a blind open touches span, interval and positions, and raises BLIND at most. -/
theorem blindOpen_rest (c : Ctx) (p : Position) {s : State} (rest : linkAtRest s) :
    Only [.blind, .interval, .watches, .link, .flags] s (blindOpen c p s) := by
  cases present : s.tracker.blind with
  | none =>
    rw [blindOpen_creates c p present]
    exact .via (intervalCreated_only ..) rfl (.via (raise_rest rest) rfl (.via (arm_only ..) rfl
      (.via (setBlind_only ..) rfl (.refl ..))))
  | some b =>
    have extended : Only [.blind, .interval, .watches, .link, .flags] s (spanExtended c p b s) :=
      .via (arm_only ..) rfl (.via (disarm_only ..) rfl (.via (setBlind_only ..) rfl (.refl ..)))
    rw [blindOpen_extends c p present]; split
    · exact .via (intervalUnsealed_only _) rfl (.via (raise_rest rest) rfl (.via (disarm_only ..) rfl extended))
    · exact extended

/-- The Blind Span and its forced seal after a blind open (R51, R53). -/
theorem blindOpen_spans (c : Ctx) (p : Position) (s : State) :
    watched (blindOpen c p s) .forcedSeal (p + bu s.settings.maxSheetLength) ∧
      (s.tracker.blind = none →
        (blindOpen c p s).tracker.blind = some ⟨p, none, 1, p, .unsealed⟩ ∧ flagSet (blindOpen c p s) .blind = true) ∧
      ∀ b, s.tracker.blind = some b →
        (blindOpen c p s).tracker.blind = some { b with
          outstanding := if b.outstanding < 255 then b.outstanding + 1 else b.outstanding
          latest := p, sealState := .unsealed } ∧
        (b.sealState = .sealed → flagSet (blindOpen c p s) .blind = true) := by
  cases present : s.tracker.blind with
  | none =>
    rw [blindOpen_creates c p present]
    refine ⟨?_, fun _ => ⟨(raise_only ..).blind.resolve_left (Part.unnamed rfl), ?_⟩, fun b k => by cases k⟩
    · exact watched_arm_mono (watched_disarm (by simp) (watched_disarm (by simp)
        (((raise_sends ..).watched_iff rfl).mpr (watched_arm ..))))
    · exact (intervalCreated_background ..).flags _ (flagSet_raise ..)
  | some b =>
    rw [blindOpen_extends c p present]
    have sealing : watched (spanExtended c p b s) .forcedSeal (p + bu s.settings.maxSheetLength) := watched_arm ..
    refine ⟨?_, fun k => (by cases k), fun x k => ?_⟩
    · split
      · exact watched_disarm (by simp) (((raise_sends ..).watched_iff rfl).mpr (watched_disarm (by simp) sealing))
      · exact sealing
    · cases k
      split
      · exact ⟨(raise_only ..).blind.resolve_left (Part.unnamed rfl),
          fun _ => (intervalUnsealed_background _).flags _ (flagSet_raise ..)⟩
      · next unsealed => exact ⟨rfl, fun k => absurd k unsealed⟩

theorem unwatched_disarm_mono {j k : WatchKind} {s : State} (h : unwatched s k) : unwatched (disarm j s) k :=
  fun w m => h w (List.mem_of_mem_filter m)

/-- A span created brings BLIND, and a WAITING interval with its opening armed (R51, R139). -/
theorem blindOpen_created (c : Ctx) (p : Position) {s : State} (absent : s.tracker.blind = none) :
    raises [.blind] s (blindOpen c p s) ∧
      (blindOpen c p s).interval = ⟨.waiting, p + bu s.settings.divertDistance, none⟩ ∧
      watched (blindOpen c p s) .intervalOpening (p + bu s.settings.divertDistance) := by
  let u := arm c .forcedSeal (p + maxSheet s) (s.setTracker { s.tracker with blind := some ⟨p, none, 1, p, .unsealed⟩ })
  have run : blindOpen c p s = intervalCreated c p (raise c .blind u) := blindOpen_creates c p absent
  have settings : (raise c .blind u).settings = s.settings := (raise_only ..).settings.resolve_left (Part.unnamed rfl)
  have flags : ∀ f, flagSet (blindOpen c p s) f = flagSet (raise c .blind u) f := fun f => by
    rw [run]; exact (intervalCreated_only ..).flagSet (Part.unnamed rfl) f
  refine ⟨⟨fun f m => (flags f).trans ((raises_raise c .blind u).1 f m), fun g n o => (flags g).trans ?_⟩, ?_, ?_⟩
  · exact (raises_raise c .blind u).2 g n o
  · rw [run, ← settings]; rfl
  · rw [run, ← settings]; exact watched_arm ..

/-- A SEALED span extended brings BLIND, and takes back its clearing and its interval's closing (R51, R139). -/
theorem blindOpen_unseals (c : Ctx) (p : Position) {s : State} {b : BlindSpan} (present : s.tracker.blind = some b)
    (sealed_ : b.sealState = .sealed) :
    raises [.blind] s (blindOpen c p s) ∧ unwatched (blindOpen c p s) .clearing ∧
      unwatched (blindOpen c p s) .intervalClosing ∧ (blindOpen c p s).interval.closing = none ∧
      (blindOpen c p s).interval.phase = (if s.interval.phase = .ended then .opened else s.interval.phase) := by
  let u := disarm .clearing (spanExtended c p b s)
  have run : blindOpen c p s = intervalUnsealed (raise c .blind u) :=
    (blindOpen_extends c p present).trans (if_pos sealed_)
  have interval : (raise c .blind u).interval = s.interval := (raise_only ..).interval.resolve_left (Part.unnamed rfl)
  have flags : ∀ f, flagSet (blindOpen c p s) f = flagSet (raise c .blind u) f := fun f => by
    rw [run]; exact (intervalUnsealed_only _).flagSet (Part.unnamed rfl) f
  refine ⟨⟨fun f m => (flags f).trans ((raises_raise c .blind u).1 f m), fun g n o => (flags g).trans ?_⟩, ?_, ?_, ?_, ?_⟩
  · exact (raises_raise c .blind u).2 g n o
  · rw [run]; exact unwatched_disarm_mono ((raise_sends c .blind u).unwatched (unwatched_disarm _ _))
  · rw [run]; exact unwatched_disarm _ _
  · rw [run]; rfl
  · rw [run, ← interval]; rfl

/-! ### An OPEN without a conflict -/

theorem spanConflict_none (c : Ctx) (p : Position) {first last : Lane} {s : State}
    (free : ∀ e ∈ s.tracker.sheets, e.isOpen = true → e.sharesLane first last = false) :
    spanConflict c p first last s = s := by
  have none_ : tagsWhere (fun e => e.isOpen && e.sharesLane first last) s = [] := by
    simp only [tagsWhere, List.map_eq_nil_iff, List.filter_eq_nil_iff, Bool.and_eq_true, not_and, Bool.not_eq_true]
    exact free
  unfold spanConflict; rw [none_]

/-- An OPEN, once its conflicts are closed: with room in STREAMING an entry, otherwise a blind open (R37, R38). -/
theorem takeOpen_eq (first last : Lane) (offset : Byte) (stamp : Position) (s : State) :
    takeOpen first last offset stamp s =
      (let p := placed s stamp offset
       let u := spanConflict (Ctx.now s) p first last s
       if u.agent.mode = .streaming ∧ u.tracker.sheets.length < Config.sheetQueueMax then
         openEntry (Ctx.now s) p first last u
       else blindOpen (Ctx.now s) p u) := by
  unfold takeOpen
  simp only [Bool.and_eq_true, decide_eq_true_eq]

/-- What follows a commit in the opening of an entry leaves ACTIVE bank, settings and flags (R35, R113). -/
theorem openEntry_afterCommit (c : Ctx) (p : Position) (first last : Lane) (s : State) :
    Only [.tags, .entries, .holdings, .tagCounter, .holds, .watches] (commitIfPending c s)
      (openEntry c p first last s) := by
  refine .via (arm_only ..) rfl (.via (arm_only ..) rfl (.via (setHolders_only ..) rfl ?_))
  constructor <;> simp [holdingsOf]

/-- The entry that an OPEN with room creates, in the state it leaves (R34, R35, R37, R113). -/
theorem openEntry_opens (c : Ctx) (p : Position) (first last : Lane) (s : State) :
    ∃ e, (openEntry c p first last s).tracker.sheets = (commitIfPending c s).tracker.sheets ++ [e] ∧
      e.tag = nextTag s ∧ (openEntry c p first last s).tracker.tagCounter = e.tag + 1 ∧
      isNew (openEntry c p first last s) e p first last ∧ commitTaken s (openEntry c p first last s) := by
  have committed := commitIfPending_only c s
  have tag : nextTag (commitIfPending c s) = nextTag s :=
    nextTag_congr (commitIfPending_tags c s) (committed.tagCounter.resolve_left (Part.unnamed rfl))
  have after := openEntry_afterCommit c p first last s
  obtain ⟨active, generation⟩ := after.active.resolve_left (Part.unnamed rfl)
  refine ⟨nextEntry p first last (commitIfPending c s), rfl, tag, rfl,
    ⟨rfl, rfl, rfl, rfl, rfl, active.symm, generation.symm, rfl, rfl, rfl, rfl, rfl, rfl, rfl,
      fun _ => Vector.getElem_replicate _, rfl, rfl, rfl, watched_arm_mono (watched_arm ..), watched_arm ..⟩,
    commitTaken_after after rfl rfl (fun f k => (after.flagSet (Part.unnamed rfl) f).trans k)
      (commitIfPending_commits c s)⟩

theorem commitIfPending_keepsRest (c : Ctx) {s : State} (h : linkAtRest s) : keepsRest s (commitIfPending c s) := by
  cases pending : s.tables.commitPending with
  | false => rw [commitIfPending_none c pending]; exact .refl h
  | true =>
    rw [commitIfPending_pending c pending]
    refine keepsRest.trans ?_ (raise_keepsRest ?_)
    · exact ⟨by constructor <;> simp [holdingsOf], h⟩
    · exact h

/-- An OPEN without a conflict, with room in STREAMING (R37). -/
theorem takeOpen_opens {first last : Lane} {s : State} (mode : s.agent.mode = .streaming)
    (room : s.tracker.sheets.length < Config.sheetQueueMax)
    (free : ∀ e ∈ s.tracker.sheets, e.isOpen = true → e.sharesLane first last = false) (offset : Byte)
    (stamp : Position) :
    takeOpen first last offset stamp s = openEntry (Ctx.now s) (placed s stamp offset) first last s := by
  rw [takeOpen_eq]
  dsimp only
  rw [spanConflict_none _ _ free]
  exact if_pos ⟨mode, room⟩

/-- An OPEN without a conflict, in DRAINING or with the queue full (R37, R38). -/
theorem takeOpen_blind {first last : Lane} {s : State}
    (closed : s.agent.mode ≠ .streaming ∨ Config.sheetQueueMax ≤ s.tracker.sheets.length)
    (free : ∀ e ∈ s.tracker.sheets, e.isOpen = true → e.sharesLane first last = false) (offset : Byte)
    (stamp : Position) :
    takeOpen first last offset stamp s = blindOpen (Ctx.now s) (placed s stamp offset) s := by
  rw [takeOpen_eq]
  dsimp only
  rw [spanConflict_none _ _ free]
  exact if_neg (by rintro ⟨m, room⟩; exact closed.elim (absurd m) (Nat.not_le.mpr room))

/-- Settles O19: with no conflict the OPEN is the opening of an entry. -/
theorem openBecomesAnEntry : Obligations.OpenBecomesAnEntry := by
  intro s first last offset mode hunting ok rest room free
  let a := armSilence s
  let p := placed s s.position.belt offset
  have run : exec (.openSheet s.scan.deckValue first last offset) s = .next (openEntry (Ctx.now a) p first last a) :=
    (exec_accepted ⟨.inl mode, hunting⟩ (traffic_open ok offset)).trans
      (congrArg Host.Outcome.next (takeOpen_opens (s := a) mode room free offset _))
  obtain ⟨fresh, passed⟩ := nextTag_fresh (s := a) room
  obtain ⟨e, sheets, tag, counter, new, committed⟩ := openEntry_opens (Ctx.now a) p first last a
  have quiet := (commitIfPending_keepsRest (Ctx.now a) (armSilence_rest rest)).1.quiet.1
  have leaves := openEntry_leaves (Ctx.now a) p first last a
  refine ⟨_, e, run, ?_, leaves.blind.resolve_left (Part.unnamed rfl), tag ▸ fresh, counter, tag ▸ passed,
    leaves.settings.resolve_left (Part.unnamed rfl), new, committed, fun none_ => ?_⟩
  · rw [sheets, quiet]; rfl
  · rw [openEntry_eq, commitIfPending_none (s := a) _ none_]; rfl

/-- Settles O21: without a conflict the OPEN is a blind open, which creates the span or extends it. -/
theorem blindOpenExtendsTheSpan : Obligations.BlindOpenExtendsTheSpan := by
  intro s first last offset ok rest hunting closed free
  let a := armSilence s
  obtain ⟨p, leading⟩ : ∃ p, p = placed s s.position.belt offset := ⟨_, rfl⟩
  have closed_ : a.agent.mode ≠ .streaming ∨ Config.sheetQueueMax ≤ a.tracker.sheets.length :=
    closed.imp (fun m k => by rw [show a.agent.mode = .draining from m] at k; cases k) (·.2)
  have run : exec (.openSheet s.scan.deckValue first last offset) s = .next (blindOpen (Ctx.now a) p a) := by
    rw [exec_accepted ⟨closed.elim .inr fun k => .inl k.1, hunting⟩ (traffic_open ok offset), leading]
    exact congrArg Host.Outcome.next (takeOpen_blind (s := a) closed_ free offset _)
  rw [← leading]
  obtain ⟨armed, created, extended⟩ := blindOpen_spans (Ctx.now a) p a
  have leaves := blindOpen_rest (Ctx.now a) p (armSilence_rest rest)
  refine ⟨_, run, leaves.entries.resolve_left (Part.unnamed rfl), leaves.tagCounter.resolve_left (Part.unnamed rfl),
    leaves.tables rfl, armed, fun absent => ⟨(created absent).1, blindOpen_created (Ctx.now a) p (s := a) absent⟩,
    fun b present => ⟨(extended b present).1, blindOpen_unseals (Ctx.now a) p (s := a) present, fun unsealed => ?_⟩⟩
  have opened : blindOpen (Ctx.now a) p a = spanExtended (Ctx.now a) p b a :=
    (blindOpen_extends (Ctx.now a) p (s := a) present).trans (if_neg (by simp [unsealed]))
  rw [opened]
  exact ⟨rfl, rfl⟩

end Sys2Proof.Machine
end

section
/-! Decisions (R45, R130, R149, Table 3-2): which positions of an entry a decision rests on, the decision each source
gives, and the three events that bring a decision of their own: a tallied feature (R68 to R71), the decision point (R46)
and the end of an evaluation (R93, R100 to R103). -/
namespace Sys2Proof.Machine
open Sys2Proof.Safety

/-! ### The positions a decision arms -/

/-- Fire point and stamp start of an entry are watched as before. -/
def routingKept (tag : Tag) (s t : State) : Prop :=
  ∀ p, (watched t (.fire tag) p ↔ watched s (.fire tag) p) ∧
    (watched t (.stampStart tag) p ↔ watched s (.stampStart tag) p)

theorem routingKept.refl (tag : Tag) (s : State) : routingKept tag s s := fun _ => ⟨.rfl, .rfl⟩

theorem routingKept.trans {tag : Tag} {s t u : State} (h : routingKept tag s t) (k : routingKept tag t u) :
    routingKept tag s u := fun p => ⟨(k p).1.trans (h p).1, (k p).2.trans (h p).2⟩

theorem routingKept_of_watches {s t : State} (h : t.watches = s.watches) (tag : Tag) : routingKept tag s t := by
  intro p; unfold watched; rw [h]; exact ⟨.rfl, .rfl⟩

theorem Sends.routingKept {s t : State} (h : Sends s t) (tag : Tag) : routingKept tag s t :=
  fun _ => ⟨h.watched_iff rfl, h.watched_iff rfl⟩

theorem arm_routingKept (c : Ctx) {k : WatchKind} (p : Position) {tag : Tag} (s : State) (fire : k ≠ .fire tag)
    (stamp : k ≠ .stampStart tag) : routingKept tag s (arm c k p s) := by
  intro q
  rw [watched_arm_iff, watched_arm_iff]
  simp [fire, stamp]

theorem disarm_routingKept {k : WatchKind} {tag : Tag} (s : State) (fire : .fire tag ≠ k)
    (stamp : .stampStart tag ≠ k) : routingKept tag s (disarm k s) := by
  intro q
  rw [watched_disarm_iff, watched_disarm_iff]
  exact ⟨and_iff_right fire, and_iff_right stamp⟩

theorem armSilence_routingKept (tag : Tag) (s : State) : routingKept tag s (armSilence s) := by
  let u := s.setScan { s.scan with lastStamp := s.position.belt, silence := .armed }
  exact routingKept.trans (t := disarm .silence u) (disarm_routingKept u (by simp) (by simp))
    (arm_routingKept _ _ _ (by simp) (by simp))

/-- The positions of another kind stay when one is taken. -/
theorem watched_dropWatch {w : Watch} {k : WatchKind} {p : Position} {s : State} (n : w.kind ≠ k) :
    watched (dropWatch w s) k p ↔ watched s k p :=
  exists_congr fun x =>
    ⟨fun ⟨m, kind, pos⟩ => ⟨List.mem_of_mem_erase m, kind, pos⟩, fun ⟨m, kind, pos⟩ =>
      ⟨(List.mem_erase_of_ne (by rintro rfl; exact n kind)).mpr m, kind, pos⟩⟩

theorem dropWatch_routingKept {w : Watch} {tag : Tag} (s : State) (fire : w.kind ≠ .fire tag)
    (stamp : w.kind ≠ .stampStart tag) : routingKept tag s (dropWatch w s) :=
  fun _ => ⟨watched_dropWatch fire, watched_dropWatch stamp⟩

/-- What a decision arms for its entry rests on the settings and on fire point and stamp start, and what follows leaves
it so (R130, R149). -/
theorem armsPositions_between {r s t u : State} {e : Entry} {gate : Fin 6} (settings : s.settings = r.settings)
    (before : routingKept e.tag r s) (after : routingKept e.tag t u) (h : armsPositions s t e gate) :
    armsPositions r u e gate := by
  obtain ⟨fire, first, kept⟩ := h
  rw [settings] at fire first kept
  refine ⟨fun pending undiverted => ?_, fun undecided distance => ?_, fun stays p => ?_⟩
  · obtain ⟨armed, only⟩ := fire pending undiverted
    refine ⟨(after _).1.mpr armed, fun w m kind => ?_⟩
    obtain ⟨x, mx, kindX, pos⟩ := (after w.pos).1.mp ⟨w, m, kind, rfl⟩
    exact pos ▸ only x mx kindX
  · exact (after _).2.mpr (first undecided distance)
  · exact (after p).2.trans ((kept stays p).trans (before p).2)

/-- A decision after another one of the same entry: its fire point replaces the other, and the stamp start stays (R130,
R149). -/
theorem armsPositions_again {s t u : State} {e x : Entry} {gate gate' : Fin 6} (settings : t.settings = s.settings)
    (tag : x.tag = e.tag) (leading : x.leading = e.leading) (route : x.route = e.route)
    (diverted : x.flags.diverted = e.flags.diverted) (decided : x.decision.isSome = true)
    (h : armsPositions s t e gate) (k : armsPositions t u x gate') : armsPositions s u e gate' := by
  obtain ⟨-, first, kept⟩ := h
  obtain ⟨fire, -, keptX⟩ := k
  rw [settings, tag, leading, route, diverted] at fire
  rw [tag] at keptX
  exact ⟨fire, fun undecided distance => (keptX (.inl decided) _).mpr (first undecided distance),
    fun stays p => (keptX (.inl decided) p).trans (kept stays p)⟩

/-- The watched positions of one kind, first armed first. -/
def ofKind (k : WatchKind) (s : State) : List Watch := s.watches.filter fun w => w.kind = k

theorem watched_iff_ofKind {k : WatchKind} {p : Position} {s : State} : watched s k p ↔ ∃ w ∈ ofKind k s, w.pos = p := by
  simp [watched, ofKind, and_assoc]

theorem unwatched_iff_ofKind {k : WatchKind} {s : State} : unwatched s k ↔ ofKind k s = [] := by
  simp [unwatched, ofKind, List.filter_eq_nil_iff]

theorem ofKind_congr {s t : State} (h : t.watches = s.watches) (k : WatchKind) : ofKind k t = ofKind k s := by
  unfold ofKind; rw [h]

theorem ofKind_arm {j k : WatchKind} (n : j ≠ k) (c : Ctx) (p : Position) (s : State) :
    ofKind k (arm c j p s) = ofKind k s := by
  simp [ofKind, arm, List.filter_append, n]

theorem ofKind_disarm {j k : WatchKind} (n : k ≠ j) (s : State) : ofKind k (disarm j s) = ofKind k s := by
  simp only [ofKind, disarm, State.setWatches_watches, List.filter_filter]
  refine List.filter_congr fun w _ => ?_
  by_cases own : w.kind = k
  · simp [own, n]
  · simp [own]

theorem Sends.ofKind {s t : State} (h : Sends s t) {k : WatchKind} (n : k.isStale = false) :
    Machine.ofKind k t = Machine.ofKind k s := by
  have fresh : ∀ u : State,
      Machine.ofKind k u = (u.watches.filter fun w => !w.kind.isStale).filter fun w => w.kind = k := fun u => by
    unfold Machine.ofKind
    rw [List.filter_filter]
    refine List.filter_congr fun w _ => ?_
    by_cases own : w.kind = k
    · simp [own, n]
    · simp [own]
  rw [fresh, fresh, h.watches]

/-- Every position but the fire point and the stamp start of an entry is watched as before. -/
def othersWatched (tag : Tag) (s t : State) : Prop :=
  ∀ k, k ≠ .fire tag → k ≠ .stampStart tag → ofKind k t = ofKind k s

theorem othersWatched.trans {tag : Tag} {s t u : State} (h : othersWatched tag s t) (k : othersWatched tag t u) :
    othersWatched tag s u := fun x fire stamp => (k x fire stamp).trans (h x fire stamp)

theorem routeDecided_othersWatched (c : Ctx) (tag : Tag) (s : State) : othersWatched tag s (routeDecided c tag s) := by
  intro k fire stamp
  unfold routeDecided withEntry
  split
  · dsimp only
    split
    · split
      · rw [ofKind_arm fire.symm, ofKind_disarm fire]
      · rfl
    · rfl
  · rfl

theorem markerDecided_othersWatched (c : Ctx) (tag : Tag) (first : Bool) (s : State) :
    othersWatched tag s (markerDecided c tag first s) := by
  intro k fire stamp
  unfold markerDecided
  split
  · unfold withEntry
    split
    · exact ofKind_arm stamp.symm ..
    · rfl
  · rfl

/-- A decision arms and cancels no other position (R130, R149). -/
theorem decideAs_othersWatched (c : Ctx) (d : Decision) (tag : Tag) (e : Entry) (s : State) :
    othersWatched tag s (decideAs c d tag e s) :=
  othersWatched.trans (t := routeDecided c tag (unlist tag (modifyEntry tag (fun e => e.decided d) s)))
    (routeDecided_othersWatched c tag _) (markerDecided_othersWatched c tag e.decision.isNone _)

/-! ### The decision of each source -/

theorem elem_get {α : Type} {n : Nat} (v : Vector α n) (j : Fin n) (d : α) : elem v j.val d = v.get j := by
  simp [elem, Vector.get_eq_getElem]

/-- The rows of a pattern are the four elements of the marker section from pattern × 4 on (R45). -/
theorem patternRows_get (b : Bank) {p : Fin 8} {i : Fin 4} {j : Fin 32} (h : j.val = p.val * 4 + i.val) :
    (b.patternRows p).get i = b.patterns.get j := by
  rw [← elem_get b.patterns j 0, h]
  have row : ∀ i : Fin 4, (b.patternRows p).get i = elem b.patterns (p.val * 4 + i.val) 0 := by
    intro i
    match i with
    | 0 => rfl
    | 1 => rfl
    | 2 => rfl
    | 3 => rfl
  exact row i

/-- A decision by grade, gate, pattern and source is what Table 3-2 says of it (R45). -/
theorem decision_is (b : Bank) (grade : Fin 16) (gate : Fin 6) (pattern : Option (Fin 8)) (source : DecisionSource) :
    decisionIs b (b.decision grade gate pattern source) grade.val gate pattern source := by
  refine ⟨rfl, rfl, rfl, rfl, fun none_ => by rw [none_]; rfl, fun p some_ => ⟨b.patternRows p, by rw [some_]; rfl, ?_⟩⟩
  exact fun i j h => patternRows_get b h

theorem decide_source (b : Bank) (source : DecisionSource) : (b.decide source).source = source := by
  cases source <;> rfl

/-- An entry is decided from the bank it reads (R45). -/
theorem decideEntry_found {tag : Tag} {s : State} {e : Entry} (found : findEntry tag s = some e) (c : Ctx)
    (source : DecisionSource) : decideEntry c source tag s = decideAs c ((decisionBank s e).decide source) tag e s :=
  withEntry_some found

/-- The bank a decision is read from does not rest on what the entry has tallied (R45). -/
theorem decisionBank_congr (s : State) {e x : Entry} (bank : x.bank = e.bank) (holding : x.holding = e.holding) :
    decisionBank s x = decisionBank s e := by unfold decisionBank; rw [bank, holding]

/-- Deciding an entry that is not listed leaves the evaluator. -/
theorem unlist_absent {tag : Tag} {s : State} (h : tag ∉ s.evaluator.list) : unlist tag s = s := by
  have same : s.evaluator.list.filter (fun t => t ≠ tag) = s.evaluator.list :=
    List.filter_eq_self.mpr fun x m => by
      have other : x ≠ tag := by rintro rfl; exact h m
      simpa using other
  unfold unlist
  rw [same]; rfl

theorem decideAs_told (c : Ctx) (d : Decision) (tag : Tag) (e : Entry) (s : State) :
    Only [.watches] (unlist tag (modifyEntry tag (fun e => e.decided d) s)) (decideAs c d tag e s) :=
  .via (markerDecided_only ..) rfl (.via (routeDecided_only ..) rfl (.refl ..))

theorem decideAs_list (c : Ctx) (d : Decision) (tag : Tag) (e : Entry) (s : State) :
    (decideAs c d tag e s).evaluator = { s.evaluator with list := s.evaluator.list.filter fun t => t ≠ tag } :=
  (decideAs_told c d tag e s).evaluator.resolve_left (Part.unnamed rfl)

/-! ### The other entries -/

theorem othersStay.trans {tag : Tag} {s t u : State} (h : othersStay tag s t) (k : othersStay tag t u) :
    othersStay tag s u := fun x n => (k x n).trans (h x n)

theorem Only.othersStay {W : List Part} {s t : State} (k : Only W s t) (entries : W.contains .entries = false)
    (tag : Tag) : othersStay tag s t := fun x _ => findEntry_only k (Part.unnamed entries) x

theorem modifyEntry_others {tag : Tag} {f : Entry → Entry} (hf : ∀ e, (f e).tag = e.tag) (s : State) :
    othersStay tag s (modifyEntry tag f s) := by
  intro x n
  rw [findEntry_modifyEntry hf]
  cases found : findEntry x s with
  | none => rfl
  | some e =>
    have own : e.tag = x := (Stable.findEntry_mem found).2
    rw [Option.map_some, if_neg (own ▸ n)]

theorem withEntry_others {tag : Tag} {f : Entry → State → State} {s : State} (h : ∀ e, othersStay tag s (f e s)) :
    othersStay tag s (withEntry tag f s) := by
  unfold withEntry; split
  · exact h _
  · exact fun _ _ => rfl

/-- A decision touches its own entry only. -/
theorem decideAs_others (c : Ctx) (d : Decision) (tag : Tag) (e : Entry) (s : State) :
    othersStay tag s (decideAs c d tag e s) :=
  othersStay.trans (modifyEntry_others (f := fun e => e.decided d) (fun _ => rfl) s)
    (othersStay.trans ((unlist_only tag _).othersStay rfl tag) ((decideAs_told c d tag e s).othersStay rfl tag))

theorem decideEntry_others (c : Ctx) (source : DecisionSource) (tag : Tag) (s : State) :
    othersStay tag s (decideEntry c source tag s) := withEntry_others fun e => decideAs_others c _ tag e s

theorem tallyFeature_others (c : Ctx) (tag : Tag) (kind : BitVec 5) (band : Fin 4) (along across : Word) (zone : Zone)
    (s : State) : othersStay tag s (tallyFeature c tag kind band along across zone s) := by
  refine withEntry_others fun e => ?_
  have tallied : ∀ cls size area, othersStay tag s (modifyEntry tag (fun e => e.tallied cls size area) s) :=
    fun cls size area => modifyEntry_others (f := fun e => e.tallied cls size area) (fun _ => rfl) s
  dsimp only; split
  · exact othersStay.trans (tallied _ _ _) (decideEntry_others c .fatal tag _)
  · exact tallied _ _ _

/-! ### A feature tallied -/

/-- An entry after a feature of a Class Table entry: tallied, and decided `d` when it is marked fatal and the sheet is
undecided (R69 to R71). -/
def Entry.classed (k : ClassEntry) (d : Decision) (size area : Nat) (e : Entry) : Entry :=
  if k.fatal && e.decision.isNone then (e.tallied k.cls size area).decided d else e.tallied k.cls size area

theorem tallied_tally (e : Entry) (cls : Option (Fin 12)) (size area : Nat) (k : Fin 12) :
    (e.tallied cls size area).tally.get k =
      if cls = some k then (e.tally.get k).add size area else e.tally.get k := by
  cases cls with
  | none => rfl
  | some j =>
    by_cases same : j = k
    · subst same; simp [Entry.tallied, Vector.get_eq_getElem]
    · have other : j.val ≠ k.val := fun h => same (Fin.ext h)
      simp [Entry.tallied, Vector.get_eq_getElem, same, Vector.getElem_set_ne _ _ other]

theorem classed_tally (k : ClassEntry) (d : Decision) (size area : Nat) (e : Entry) :
    (e.classed k d size area).tally = (e.tallied k.cls size area).tally := by
  unfold Entry.classed; split <;> rfl

theorem classed_counts (k : ClassEntry) (d : Decision) (size area : Nat) (e : Entry) :
    (e.classed k d size area).total = satInc 65535 e.total ∧ (e.classed k d size area).held = e.held ∧
      (e.classed k d size area).moisture = e.moisture ∧ (e.classed k d size area).state = e.state := by
  unfold Entry.classed; split <;> exact ⟨rfl, rfl, rfl, rfl⟩

/-- A fatal feature of an undecided sheet decides it (R71). -/
theorem classed_fatal {k : ClassEntry} {e : Entry} (fatal : k.fatal = true) (undecided : e.decision = none)
    (d : Decision) (size area : Nat) : e.classed k d size area = (e.tallied k.cls size area).decided d :=
  if_pos (by simp [fatal, undecided])

theorem classed_quiet {k : ClassEntry} {e : Entry} (h : k.fatal = false ∨ e.decision.isSome = true) (d : Decision)
    (size area : Nat) : e.classed k d size area = e.tallied k.cls size area := by
  refine if_neg ?_
  rcases h with h | h
  · simp [h]
  · simp [Option.isSome_iff_ne_none.mp h]

/-- What the tally of a feature does to its entry (R68 to R71). -/
structure Tallies (s t : State) (tag : Tag) (e : Entry) (k : ClassEntry) (d : Decision) (size area : Nat) : Prop where
  found : findEntry tag t = some (e.classed k d size area)
  arms : k.fatal = true → e.decision = none → armsPositions s t e d.gate
  quiet : k.fatal = false ∨ e.decision.isSome = true → t.watches = s.watches
  others : othersWatched tag s t
  evaluator : tag ∉ s.evaluator.list → t.evaluator = s.evaluator

theorem tallyFeature_tallies (c : Ctx) {tag : Tag} {s : State} {e : Entry} (found : findEntry tag s = some e)
    (kind : BitVec 5) (band : Fin 4) (along across : Word) (zone : Zone) :
    Tallies s (tallyFeature c tag kind band along across zone s) tag e ((s.tables.bank e.bank).classOf kind band zone)
      ((decisionBank s e).decide .fatal) (featureSize along across) (featureArea along across) := by
  obtain ⟨k, entry⟩ : ∃ k, k = (s.tables.bank e.bank).classOf kind band zone := ⟨_, rfl⟩
  let m := modifyEntry tag (fun x => x.tallied k.cls (featureSize along across) (featureArea along across)) s
  have foundM : findEntry tag m = some (e.tallied k.cls (featureSize along across) (featureArea along across)) :=
    findEntry_modifyEntry_self (fun _ => rfl) found
  have run : tallyFeature c tag kind band along across zone s =
      if k.fatal && e.decision.isNone then decideEntry c .fatal tag m else m := by
    unfold tallyFeature
    rw [withEntry_some found]
    dsimp only
    rw [← entry]
  have own : e.tag = tag := (Stable.findEntry_mem found).2
  rw [← entry, run]
  by_cases fatal : (k.fatal && e.decision.isNone) = true
  · rw [if_pos fatal, decideEntry_found foundM,
      decisionBank_congr m (x := e.tallied k.cls _ _) (e := e) rfl rfl]
    have self := decideAs_self c ((decisionBank s e).decide .fatal)
      (e.tallied k.cls (featureSize along across) (featureArea along across)) foundM
    have both : k.fatal = true ∧ e.decision = none := by simpa using fatal
    refine ⟨?_, fun _ _ => ?_, fun k => ?_, decideAs_othersWatched c _ tag _ m, fun unlisted => ?_⟩
    · rw [Entry.classed, if_pos fatal]; exact self.1
    · exact decideAs_arms (s := m) c _ e foundM own rfl rfl rfl rfl
    · rcases k with k | k
      · rw [both.1] at k; cases k
      · rw [both.2] at k; cases k
    · rw [decideAs_list]
      exact congrArg State.evaluator (unlist_absent (s := m) unlisted)
  · rw [if_neg fatal]
    refine ⟨?_, fun a b => absurd (by simp [a, b]) fatal, fun _ => rfl, fun _ _ _ => rfl, fun _ => rfl⟩
    rw [Entry.classed, if_neg fatal]; exact foundM

/-- The edge zone, on whole numbers (R62). -/
theorem arrivesAtEdge_iff (b : Bank) (e : Entry) (lane : Lane) (pos : Position) : arrivesAtEdge b e lane pos = true ↔
    lane = e.first ∨ lane = e.last ∨
      (0 < (e.leading + b.edgeZone.setWidth 32 - pos).toNat ∧
        (e.leading + b.edgeZone.setWidth 32 - pos).toNat < 2 ^ 31) := by
  have apart : pos ≠ e.leading + b.edgeZone.setWidth 32 ↔ 0 < (e.leading + b.edgeZone.setWidth 32 - pos).toNat := by
    generalize e.leading + b.edgeZone.setWidth 32 = q
    constructor <;> intro h <;> bv_omega
  simp only [arrivesAtEdge, before, bu, Bool.or_eq_true, Bool.and_eq_true, decide_eq_true_eq, or_assoc]
  exact or_congr_right (or_congr_right (and_congr (decide_eq_true_iff.trans apart) decide_eq_true_iff))

/-- Core and edge of a kind and band are neighbours in the Class Table (R68). -/
theorem classOf_get (b : Bank) (kind : BitVec 5) (band : Fin 4) : ∃ core edge : Fin 256,
    core.val = kind.toNat * 8 + band.val * 2 ∧ edge.val = kind.toNat * 8 + band.val * 2 + 1 ∧
      b.classOf kind band .core = b.classTable.get core ∧ b.classOf kind band .edge = b.classTable.get edge := by
  have bound := kind.isLt
  refine ⟨⟨kind.toNat * 8 + band.val * 2, by omega⟩, ⟨kind.toNat * 8 + band.val * 2 + 1, by omega⟩, rfl, rfl, ?_, ?_⟩
  · exact elem_get b.classTable ⟨kind.toNat * 8 + band.val * 2, by omega⟩ _
  · exact elem_get b.classTable ⟨kind.toNat * 8 + band.val * 2 + 1, by omega⟩ _

/-- A feature at the edge, or anywhere when the Edge Zone Distance is 0, is tallied at once (R62, R63). -/
theorem classifyFeature_tallies {tag : Tag} {s : State} {e : Entry} (found : findEntry tag s = some e) {lane : Lane}
    {pos : Position}
    (now : arrivesAtEdge (s.tables.bank e.bank) e lane pos = true ∨ (s.tables.bank e.bank).edgeZone = 0) (c : Ctx)
    (kind : BitVec 5) (along across : Word) :
    classifyFeature c tag lane kind along across pos s =
      tallyFeature c tag kind (sizeBand (s.tables.bank e.bank).bandLimits (featureSize along across)) along across
        (if arrivesAtEdge (s.tables.bank e.bank) e lane pos then .edge else .core) s := by
  unfold classifyFeature
  rw [withEntry_some found]
  dsimp only
  by_cases edge : arrivesAtEdge (s.tables.bank e.bank) e lane pos = true
  · rw [if_pos edge, if_pos edge]
  · rw [if_neg edge, if_neg edge, if_pos (now.resolve_left edge)]

/-- Settles O23: the tally of one feature, field by field. -/
theorem featureIsTallied : Obligations.FeatureIsTallied := by
  refine ⟨fun _ _ _ => rfl, arrivesAtEdge_iff, classOf_get, ?_⟩
  intro s e lane kind along across offset taken d ok attributed now
  let a := armSilence s
  obtain ⟨member, opened, -, -⟩ := attributedTo_some attributed
  have found : findEntry e.tag a = some e := findEntry_self (s := a) d member
  have row : traffic s (.feature s.scan.deckValue lane kind along across offset) = some (s.scan.deckValue, true) :=
    congrArg (fun b => some (s.scan.deckValue, b)) ok
  obtain ⟨zone, zoneEq⟩ : ∃ z : Zone, z =
    if arrivesAtEdge (s.tables.bank e.bank) e lane (placed s s.position.belt offset) then .edge else .core := ⟨_, rfl⟩
  obtain ⟨band, bandEq⟩ : ∃ x, x = sizeBand (s.tables.bank e.bank).bandLimits (max along.toNat across.toNat) := ⟨_, rfl⟩
  have run : exec (.feature s.scan.deckValue lane kind along across offset) s =
      .next (tallyFeature (Ctx.now a) e.tag kind band along across zone a) := by
    rw [exec_accepted taken row]
    have act : takeFeature lane kind along across offset s.position.belt a =
        classifyFeature (Ctx.now a) e.tag lane kind along across (placed a s.position.belt offset) a := by
      have attributed : attributedTo lane a = some e := attributed
      unfold takeFeature; rw [attributed]
    rw [zoneEq, bandEq]
    exact congrArg Host.Outcome.next (act.trans (classifyFeature_tallies found now ..))
  have tallies := tallyFeature_tallies (Ctx.now a) found kind band along across zone
  have foundT : findEntry e.tag (tallyFeature (Ctx.now a) e.tag kind band along across zone a) =
      some (e.classed ((s.tables.bank e.bank).classOf kind band zone) ((decisionBank s e).decide .fatal)
        (featureSize along across) (featureArea along across)) := tallies.found
  have leaves := tallyFeature_only (Ctx.now a) e.tag kind band along across zone a
  rw [← zoneEq, ← bandEq]
  obtain ⟨total, held, moisture, state⟩ := classed_counts ((s.tables.bank e.bank).classOf kind band zone)
    ((decisionBank s e).decide .fatal) (featureSize along across) (featureArea along across) e
  refine ⟨_, _, _, run, foundT, rfl, fun k => ?_, total, held, moisture, state.trans opened, fun fatal undecided => ?_,
    fun k => ?_, leaves.attention (Part.unnamed rfl) (Part.unnamed rfl) (Part.unnamed rfl), leaves.tables rfl,
    tallyFeature_others (Ctx.now a) e.tag kind band along across zone a⟩
  · rw [classed_tally, tallied_tally]; rfl
  · rw [classed_fatal fatal undecided]
    refine ⟨by simp [Entry.decided, decide_source], _, rfl, rfl, decide_source .., rfl, rfl, ?_⟩
    exact armsPositions_between (s := a) rfl (armSilence_routingKept e.tag s) (.refl _ _) (tallies.arms fatal undecided)
  · rw [classed_quiet k]; exact ⟨rfl, rfl⟩

/-! ### The decision point -/

theorem decisionReached_decided {tag : Tag} {s : State} {e : Entry} (found : findEntry tag s = some e)
    (decided : e.decision.isSome = true) (w : Watch) : decisionReached tag w s = s := by
  unfold decisionReached
  dsimp only
  rw [withEntry_some found]
  exact if_neg (by simp [Option.isSome_iff_ne_none.mp decided])

theorem decisionReached_undecided {tag : Tag} {s : State} {e : Entry} (found : findEntry tag s = some e)
    (undecided : e.decision = none) (w : Watch) :
    decisionReached tag w s = raise (Ctx.at .tracker w.pos) .late (endHold (Ctx.at .tracker w.pos) tag
      (decideAs (Ctx.at .tracker w.pos) ((decisionBank s e).decide .late) tag e s)) := by
  unfold decisionReached
  dsimp only
  rw [withEntry_some found, ← decideEntry_found found]
  exact if_pos (by simp [undecided])

/-- With the link at rest a raised flag leaves every entry and position. -/
theorem raise_quiet (c : Ctx) (f : Flag) {s : State} (rest : linkAtRest s) :
    (raise c f s).tracker = s.tracker ∧ (raise c f s).watches = s.watches := (raise_keepsRest rest).1.quiet

theorem findEntry_of_tracker {s t : State} (h : t.tracker = s.tracker) (tag : Tag) : findEntry tag t = findEntry tag s :=
  findEntry_congr tag (congrArg Tracker.sheets h)

theorem decisionPoint_late {w : Watch} {tag : Tag} (kind : w.kind = .decision tag) (s : State) :
    routingKept tag s (dropWatch w s) := dropWatch_routingKept s (by simp [kind]) (by simp [kind])

/-- Settles O32: the position is taken, and an undecided entry takes its LATE decision. -/
theorem decisionPointMakesLate : Obligations.DecisionPointMakesLate := by
  intro s w e _ rest due found
  let u := dropWatch w s
  let c := Ctx.at .tracker w.pos
  have foundU : findEntry e.tag u = some e := (findEntry_dropWatch w e.tag s).trans found
  have run : exec (.decisionPoint e.tag) s = .next (decisionReached e.tag w u) :=
    congrArg Host.Outcome.next (takeNamed_due due)
  refine ⟨fun decided => ?_, fun undecided => ?_⟩
  · rw [run, decisionReached_decided foundU decided]
  · let d := (decisionBank s e).decide .late
    let v := decideAs c d e.tag e u
    obtain ⟨flight, restV⟩ := decideAs_flightKept c d e.tag e (s := u) (dropWatch_rest rest)
    obtain ⟨foundV, unlisted⟩ := decideAs_self c d e foundU
    obtain ⟨foundH, watchesH, evaluatorH⟩ := endHold_self c foundV restV
    obtain ⟨tracker, watches⟩ := raise_quiet c .late (endHold_flightKept c e.tag restV).2
    have evaluator := (raise_only c .late (endHold c e.tag v)).evaluator.resolve_left (Part.unnamed rfl)
    have arms : armsPositions u v e d.gate := decideAs_arms c d e foundU rfl rfl rfl rfl rfl
    rw [run, decisionReached_undecided foundU undecided]
    refine ⟨_, _, d, rfl, (findEntry_of_tracker tracker _).trans foundH, rfl, rfl, rfl, rfl, rfl, ?_, ?_, rfl, rfl, ?_, ?_,
      flagSet_raise .., fun x n => (findEntry_of_tracker tracker x).trans ?_⟩
    · simp [Entry.decided, d, decide_source]
    · exact armsPositions_between (s := u) rfl (decisionPoint_late due.right s)
        (routingKept_of_watches (watches.trans watchesH) e.tag) arms
    · exact fun m => unlisted (congrArg Evaluator.list (evaluator.trans evaluatorH) ▸ m)
    · exact (congrArg Evaluator.inFlight (evaluator.trans evaluatorH)).trans flight
    · exact ((endHold_apart n c restV).entry).trans (decideAs_others c d e.tag e u x n)

/-! ### The start of an evaluation -/

theorem startEvaluation_idle {s : State} (h : s.evaluator.list = [] ∨ s.evaluator.inFlight.isSome = true) :
    startEvaluation s = s := by
  rcases startEvaluation_cases s with k | ⟨tag, rest, e, ev, -, -⟩
  · exact k
  · rw [ev] at h; simp at h

/-- An IDLE evaluator takes the entry at the head (R93). -/
theorem startEvaluation_takes {s : State} {tag : Tag} {rest : List Tag} {e : Entry}
    (evaluator : s.evaluator = ⟨tag :: rest, none⟩) (found : findEntry tag s = some e) :
    startEvaluation s = modifyEntry tag (fun x => { x with evalStatus := .inEvaluation })
      (s.setEvaluator ⟨tag :: rest, some ⟨tag, e.bank⟩⟩) := by
  unfold startEvaluation
  rw [evaluator]
  exact (withEntry_some found).trans (by rw [evaluator])

theorem startEvaluation_list (s : State) : (startEvaluation s).evaluator.list = s.evaluator.list := by
  rcases startEvaluation_cases s with k | ⟨tag, rest, e, ev, -, k⟩
  · rw [k]
  · rw [k, ev]; rfl

theorem startEvaluation_watches (s : State) : (startEvaluation s).watches = s.watches :=
  (startEvaluation_only s).watches.resolve_left (Part.unnamed rfl)

/-- An entry that is not at the head is left alone. -/
theorem startEvaluation_other {s : State} {x : Tag} (n : s.evaluator.list.head? ≠ some x) :
    findEntry x (startEvaluation s) = findEntry x s := by
  rcases startEvaluation_cases s with k | ⟨tag, rest, e, ev, -, k⟩
  · rw [k]
  · rw [ev] at n
    rw [k]
    exact modifyEntry_others (f := fun x => { x with evalStatus := .inEvaluation }) (fun _ => rfl)
      (s.setEvaluator ⟨tag :: rest, some ⟨tag, e.bank⟩⟩) x (fun same => n (congrArg some same.symm))

/-- The evaluator has gone on: IDLE with an empty list, otherwise with the head, if it names an entry of `s` (R93,
R103). -/
def takesNext (s t : State) : Prop :=
  (t.evaluator.list = [] → t.evaluator.inFlight = none) ∧
    ∀ next rest y, t.evaluator.list = next :: rest → findEntry next s = some y →
      t.evaluator.inFlight = some ⟨next, y.bank⟩ ∧ ∃ z, findEntry next t = some z ∧ z.evalStatus = .inEvaluation

/-- An IDLE evaluator goes on, whatever route progress has changed since `s`. -/
theorem startEvaluation_takesNext {s u : State} (idle : u.evaluator.inFlight = none)
    (same : ∀ x ∈ u.evaluator.list, ∀ y, findEntry x s = some y → ∃ r, findEntry x u = some { y with route := r }) :
    takesNext s (startEvaluation u) := by
  refine ⟨fun k => ?_, fun next rest y k found => ?_⟩
  · rw [startEvaluation_list] at k
    rw [startEvaluation_idle (.inl k)]; exact idle
  · rw [startEvaluation_list] at k
    obtain ⟨r, foundU⟩ := same next (k ▸ .head _) y found
    have evaluator : u.evaluator = ⟨next :: rest, none⟩ := by rw [← k, ← idle]
    rw [startEvaluation_takes evaluator foundU]
    exact ⟨rfl, _, findEntry_modifyEntry_self (f := fun x => { x with evalStatus := .inEvaluation })
      (s := u.setEvaluator ⟨next :: rest, some ⟨next, y.bank⟩⟩) (fun _ => rfl) foundU, rfl⟩

/-! ### The end of an evaluation -/

/-- The result of an evaluation applied to its entry `e`, which becomes `y` and needs its bank no longer (R100 to
R102). -/
structure Resulted (s r : State) (e y : Entry) : Prop where
  found : findEntry e.tag r = some y
  free : y.needsBank = false
  list : r.evaluator.list = s.evaluator.list.filter fun x => x ≠ e.tag
  others : othersStay e.tag s r
  rest : linkAtRest r

/-- Once its hold has ended, the evaluator goes on with the next entry (R49, R103). -/
theorem Resulted.completes {s r : State} {e y : Entry} (h : Resulted s r e y) (c : Ctx) :
    findEntry e.tag (startEvaluation (evaluatorIdle (endHold c e.tag r))) = some { y with holding := false } ∧
      (startEvaluation (evaluatorIdle (endHold c e.tag r))).evaluator.list =
        s.evaluator.list.filter (fun x => x ≠ e.tag) ∧
      (startEvaluation (evaluatorIdle (endHold c e.tag r))).watches = r.watches ∧
      takesNext s (startEvaluation (evaluatorIdle (endHold c e.tag r))) := by
  obtain ⟨found, watches, evaluator⟩ := endHold_self c h.found h.rest
  have list : (evaluatorIdle (endHold c e.tag r)).evaluator.list = s.evaluator.list.filter (fun x => x ≠ e.tag) :=
    (congrArg Evaluator.list evaluator).trans h.list
  have off : ∀ x ∈ (evaluatorIdle (endHold c e.tag r)).evaluator.list, x ≠ e.tag := fun x m => by
    rw [list] at m; simpa using (List.mem_filter.mp m).2
  refine ⟨?_, (startEvaluation_list _).trans list, (startEvaluation_watches _).trans watches,
    startEvaluation_takesNext rfl fun x m z foundX => ⟨z.route, ?_⟩⟩
  · rw [startEvaluation_other fun head => off _ (List.mem_of_head? head) rfl]
    rw [h.free, Bool.and_false] at found
    exact found
  · have apart := (endHold_apart (off x m) c h.rest).entry
    exact apart.trans ((h.others x (off x m)).trans foundX)

/-- An undecided entry is decided by the result (R100). -/
theorem applyResult_undecided (c : Ctx) {f : InFlight} {s : State} {e : Entry} (found : findEntry f.tag s = some e)
    (undecided : e.decision = none) :
    applyResult c f s = setEvalStatus .done f.tag
      (decideAs c ((decisionBank s e).decide ((s.tables.bank f.bank).evaluate e)) f.tag e s) := by
  unfold applyResult
  rw [withEntry_some found]
  dsimp only
  rw [undecided, ← decideEntry_found found]

/-- A decided one is given its would-be grade when it is LATE, and nothing otherwise (R101, R102). -/
theorem applyResult_decided (c : Ctx) {f : InFlight} {s : State} {e : Entry} (found : findEntry f.tag s = some e)
    {d : Decision} (decided : e.decision = some d) :
    applyResult c f s =
      if d.source = .late then
        setEvalStatus .done f.tag (modifyEntry f.tag (fun x =>
          { x with wouldBe := some ((s.tables.bank f.bank).decide ((s.tables.bank f.bank).evaluate e)).grade }) s)
      else setEvalStatus .none f.tag s := by
  unfold applyResult
  rw [withEntry_some found]
  dsimp only
  rw [decided]

/-- A CLOSED entry that is decided and not in evaluation needs its bank no longer (R49). -/
theorem needsBank_false {e : Entry} (closed : e.isOpen = false) (decided : e.decision.isSome = true)
    (status : e.evalStatus ≠ .inEvaluation) : e.needsBank = false := by
  have state : ¬ e.state = .opened := by simpa [Entry.isOpen] using closed
  simpa [Entry.needsBank, state, status] using decided

theorem resulted_undecided (c : Ctx) {s : State} {e : Entry} (found : findEntry e.tag s = some e) (rest : linkAtRest s)
    (closed : e.isOpen = false) (d : Decision) :
    Resulted s (setEvalStatus .done e.tag (decideAs c d e.tag e s)) e { e.decided d with evalStatus := .done } := by
  refine ⟨?_, needsBank_false closed rfl (by simp), ?_, ?_, (decideAs_flightKept c d e.tag e rest).2⟩
  · exact findEntry_modifyEntry_self (f := fun x => { x with evalStatus := .done }) (fun _ => rfl)
      (decideAs_self c d e found).1
  · exact congrArg Evaluator.list (decideAs_list c d e.tag e s)
  · exact othersStay.trans (decideAs_others c d e.tag e s)
      (modifyEntry_others (f := fun x => { x with evalStatus := .done }) (fun _ => rfl) _)

/-- The list without a tag that is not on it. -/
theorem filter_absent {tag : Tag} {l : List Tag} (h : tag ∉ l) : l.filter (fun x => x ≠ tag) = l :=
  List.filter_eq_self.mpr fun x m => by
    have other : x ≠ tag := by rintro rfl; exact h m
    simpa using other

/-- An entry decided LATE before is given its would-be grade (R101). -/
theorem resulted_late {s : State} {e : Entry} (found : findEntry e.tag s = some e) (rest : linkAtRest s)
    (closed : e.isOpen = false) (decided : e.decision.isSome = true) (unlisted : e.tag ∉ s.evaluator.list)
    (grade : Fin 16) :
    Resulted s (setEvalStatus .done e.tag (modifyEntry e.tag (fun x => { x with wouldBe := some grade }) s)) e
      { e with wouldBe := some grade, evalStatus := .done } := by
  let m := modifyEntry e.tag (fun x => { x with wouldBe := some grade }) s
  have foundM : findEntry e.tag m = some { e with wouldBe := some grade } :=
    findEntry_modifyEntry_self (f := fun x => { x with wouldBe := some grade }) (fun _ => rfl) found
  refine ⟨?_, needsBank_false closed decided (by simp), (filter_absent unlisted).symm, ?_, rest⟩
  · exact findEntry_modifyEntry_self (f := fun x => { x with evalStatus := .done }) (s := m) (fun _ => rfl) foundM
  · exact othersStay.trans (modifyEntry_others (f := fun x => { x with wouldBe := some grade }) (fun _ => rfl) s)
      (modifyEntry_others (f := fun x => { x with evalStatus := .done }) (fun _ => rfl) m)

/-- For an entry decided otherwise the result is discarded (R102). -/
theorem resulted_discarded {s : State} {e : Entry} (found : findEntry e.tag s = some e) (rest : linkAtRest s)
    (closed : e.isOpen = false) (decided : e.decision.isSome = true) (unlisted : e.tag ∉ s.evaluator.list) :
    Resulted s (setEvalStatus .none e.tag s) e { e with evalStatus := .none } :=
  ⟨findEntry_modifyEntry_self (f := fun x => { x with evalStatus := .none }) (fun _ => rfl) found,
    needsBank_false closed decided (by simp), (filter_absent unlisted).symm,
    modifyEntry_others (f := fun x => { x with evalStatus := .none }) (fun _ => rfl) s, rest⟩

/-- Settles O44: the banks and Table 3-2, the start, and the end by the three results. -/
theorem evaluationStartsAndCompletes : Obligations.EvaluationStartsAndCompletes := by
  refine ⟨fun _ _ => rfl, fun b => ⟨fun n => decision_is b _ _ _ _, decision_is b 12 _ _ _, decision_is b 13 _ _ _,
    decision_is b 14 _ _ _, decision_is b 15 _ _ _⟩, fun s e rest evaluator found => ?_, ?_⟩
  · exact ⟨_, congrArg Host.Outcome.next (startEvaluation_takes evaluator found), rfl, rfl⟩
  intro s f e _ rest flight own found closed unlisted
  let c := Ctx.now s
  have foundF : findEntry f.tag s = some e := own ▸ found
  have run : exec .evaluationCompletion s =
      .next (startEvaluation (evaluatorIdle (endHold c e.tag (applyResult c f s)))) := by
    have complete : completeEvaluation s = startEvaluation (evaluatorIdle (endHold c f.tag (applyResult c f s))) := by
      unfold completeEvaluation; rw [flight]
    rw [← own, ← complete]; rfl
  cases decided : e.decision with
  | none =>
    let d := (decisionBank s e).decide ((s.tables.bank f.bank).evaluate e)
    have result := resulted_undecided c found rest closed d
    have applied := applyResult_undecided c foundF decided
    rw [own] at applied
    obtain ⟨foundT, list, watches, idle, next⟩ := result.completes c
    rw [run, applied]
    refine ⟨_, _, rfl, foundT, rfl, list, idle, next, fun _ => ⟨rfl, rfl, d, rfl, rfl, decide_source .., ?_⟩,
      fun _ k => (by cases k), fun _ k => (by cases k)⟩
    exact armsPositions_between rfl (.refl _ _) (routingKept_of_watches watches e.tag)
      (decideAs_arms c d e found rfl rfl rfl rfl rfl)
  | some d =>
    have some_ : e.decision.isSome = true := by rw [decided]; rfl
    have unlisted := unlisted some_
    have applied := applyResult_decided c foundF decided
    rw [own] at applied
    by_cases late : d.source = .late
    · rw [if_pos late] at applied
      have result := resulted_late found rest closed some_ unlisted
        ((s.tables.bank f.bank).decide ((s.tables.bank f.bank).evaluate e)).grade
      obtain ⟨foundT, list, -, idle, next⟩ := result.completes c
      rw [run, applied]
      refine ⟨_, _, rfl, foundT, rfl, list, idle, next, fun k => (by cases k), fun x k _ => ?_, fun x k other => ?_⟩
      · exact ⟨decided.trans k, rfl, rfl, rfl⟩
      · cases k; exact absurd late other
    · rw [if_neg late] at applied
      have result := resulted_discarded found rest closed some_ unlisted
      obtain ⟨foundT, list, -, idle, next⟩ := result.completes c
      rw [run, applied]
      refine ⟨_, _, rfl, foundT, rfl, list, idle, next, fun k => (by cases k), fun x k other => ?_, fun x k _ => ?_⟩
      · cases k; exact absurd other late
      · exact ⟨decided.trans k, rfl, rfl, rfl⟩

end Sys2Proof.Machine
end

section
/-! The close handling (R42): the Edge Hold List emptied as edge (R67), the SUSPECT decision or the place on the Grading
List, and the end of the hold; then the events that close a sheet. -/
namespace Sys2Proof.Machine
open Sys2Proof.Safety

/-! ### The features held, tallied as edge -/

/-- An entry after the features held are tallied as edge; `d` is the decision of the first fatal one (R67, R71). -/
def Entry.emptied (b : Bank) (d : Decision) (held : List HeldFeature) (e : Entry) : Entry :=
  held.foldl (fun e h =>
    e.classed (b.classOf h.kind h.band .edge) d (featureSize h.along h.across) (featureArea h.along h.across)) e

/-- Whether one of the features held decides the entry (R71). -/
def Entry.fatalHeld (b : Bank) (held : List HeldFeature) (e : Entry) : Bool :=
  e.decision.isNone && anyFatal b .edge held

/-- Only tally, total and a FATAL decision are new. -/
theorem emptied_eq (b : Bank) (d : Decision) : ∀ (held : List HeldFeature) (e : Entry), e.emptied b d held =
    { (if e.fatalHeld b held then e.decided d else e) with
      tally := (e.emptied b d held).tally, total := (e.emptied b d held).total }
  | [], e => by simp [Entry.emptied, Entry.fatalHeld, anyFatal]
  | h :: held, e => by
    obtain ⟨k, entry⟩ : ∃ k, k = b.classOf h.kind h.band .edge := ⟨_, rfl⟩
    obtain ⟨x, classed⟩ : ∃ x, x = e.classed k d (featureSize h.along h.across) (featureArea h.along h.across) := ⟨_, rfl⟩
    have step : e.emptied b d (h :: held) = x.emptied b d held := by rw [classed, entry]; rfl
    have any : e.fatalHeld b (h :: held) = (e.decision.isNone && (k.fatal || anyFatal b .edge held)) := by
      rw [entry]; rfl
    rw [step, emptied_eq b d held x, any, Entry.fatalHeld]
    by_cases first : (k.fatal && e.decision.isNone) = true
    · have both : k.fatal = true ∧ e.decision.isNone = true := by simpa using first
      have found : x = (e.tallied k.cls (featureSize h.along h.across) (featureArea h.along h.across)).decided d := by
        rw [classed, Entry.classed, if_pos first]
      have some_ : x.decision.isNone = false := by rw [found]; rfl
      rw [some_, both.1, both.2, found]
      rfl
    · have quiet : x = e.tallied k.cls (featureSize h.along h.across) (featureArea h.along h.across) := by
        rw [classed, Entry.classed, if_neg first]
      have same : (e.decision.isNone && (k.fatal || anyFatal b .edge held)) =
          (e.decision.isNone && anyFatal b .edge held) := by
        cases kf : k.fatal <;> cases none_ : e.decision.isNone <;> simp_all
      have undecided : x.decision = e.decision := by rw [quiet]; rfl
      rw [same, undecided]
      by_cases fatal : (e.decision.isNone && anyFatal b .edge held) = true
      · rw [if_pos fatal, if_pos fatal, quiet]; rfl
      · rw [if_neg fatal, if_neg fatal, quiet]; rfl

theorem tallyAfter_eq (b : Bank) (k : Fin 12) (t : ClassTally) (h : HeldFeature) : tallyAfter b .edge k t h =
    if (b.classOf h.kind h.band .edge).cls = some k then
      t.add (featureSize h.along h.across) (featureArea h.along h.across) else t := by
  unfold tallyAfter
  split
  · rfl
  · rfl

theorem emptied_tally (b : Bank) (d : Decision) (k : Fin 12) : ∀ (held : List HeldFeature) (e : Entry),
    (e.emptied b d held).tally.get k = held.foldl (tallyAfter b .edge k) (e.tally.get k)
  | [], _ => rfl
  | h :: held, e => by
    have step := emptied_tally b d k held (e.classed (b.classOf h.kind h.band .edge) d (featureSize h.along h.across)
      (featureArea h.along h.across))
    rw [classed_tally, tallied_tally, ← tallyAfter_eq] at step
    exact step

theorem emptied_total (b : Bank) (d : Decision) : ∀ (held : List HeldFeature) (e : Entry),
    (e.emptied b d held).total = held.foldl (fun n _ => totalAfter n) e.total
  | [], _ => rfl
  | h :: held, e => by
    have step := emptied_total b d held (e.classed (b.classOf h.kind h.band .edge) d (featureSize h.along h.across)
      (featureArea h.along h.across))
    rw [(classed_counts ..).1] at step
    exact step

/-! ### The release positions of the features held -/

theorem ofKind_disarmFirst {j k : WatchKind} (n : k ≠ j) (p : Position) (s : State) :
    ofKind k (disarmFirst j p s) = ofKind k s := by
  unfold ofKind disarmFirst
  rw [State.setWatches_watches]
  induction s.watches with
  | nil => rfl
  | cons w l ih =>
    rw [List.eraseP_cons]
    by_cases taken : w.kind = j ∧ w.pos = p
    · simp [taken.1, taken.2, n.symm]
    · have stays : (decide (w.kind = j) && decide (w.pos = p)) = false := by
        simpa using taken
      rw [stays, cond_false, List.filter_cons, List.filter_cons, ih]

/-- The first position of the kind armed there is cancelled (R65, R67). -/
theorem ofKind_disarmFirst_self (k : WatchKind) (p : Position) (s : State) :
    (ofKind k (disarmFirst k p s)).map (·.pos) = ((ofKind k s).map (·.pos)).erase p := by
  unfold ofKind disarmFirst
  rw [State.setWatches_watches]
  induction s.watches with
  | nil => rfl
  | cons w l ih =>
    rw [List.eraseP_cons]
    by_cases own : w.kind = k
    · by_cases place : w.pos = p
      · simp [own, place]
      · simp [own, place, ih]
    · simp [own, ih]

theorem disarmFirst_routingKept {k : WatchKind} {tag : Tag} (p : Position) (s : State) (fire : .fire tag ≠ k)
    (stamp : .stampStart tag ≠ k) : routingKept tag s (disarmFirst k p s) := fun q => by
  simp only [watched_iff_ofKind, ofKind_disarmFirst fire, ofKind_disarmFirst stamp, and_self]

/-! ### The Edge Hold List emptied -/

theorem classed_bank (k : ClassEntry) (d : Decision) (size area : Nat) (e : Entry) :
    (e.classed k d size area).bank = e.bank ∧ (e.classed k d size area).holding = e.holding := by
  unfold Entry.classed; split <;> exact ⟨rfl, rfl⟩

/-- What emptying the Edge Hold List of an entry does (R67, R71). -/
structure Emptied (s t : State) (tag : Tag) (e : Entry) (b : Bank) (d : Decision) (held : List HeldFeature) :
    Prop where
  found : findEntry tag t = some (e.emptied b d held)
  arms : e.fatalHeld b held = true → armsPositions s t e d.gate
  quiet : e.fatalHeld b held = false → routingKept tag s t
  releases : (ofKind (.release tag) t).map (·.pos) = ((ofKind (.release tag) s).map (·.pos)).diff
    (held.map (·.releasePos))
  others : ∀ k, k ≠ .fire tag → k ≠ .stampStart tag → k ≠ .release tag → ofKind k t = ofKind k s
  evaluator : tag ∉ s.evaluator.list → t.evaluator = s.evaluator
  entries : othersStay tag s t

/-- One feature held, tallied as edge after its release position is cancelled (R67). -/
theorem tallyHeld_tallies (c : Ctx) {tag : Tag} {s : State} {e : Entry} (found : findEntry tag s = some e)
    (h : HeldFeature) :
    Tallies (disarmFirst (.release tag) h.releasePos s)
      (tallyHeld c tag .edge h (disarmFirst (.release tag) h.releasePos s)) tag e
      ((s.tables.bank e.bank).classOf h.kind h.band .edge) ((decisionBank s e).decide .fatal)
      (featureSize h.along h.across) (featureArea h.along h.across) :=
  tallyFeature_tallies (s := disarmFirst (.release tag) h.releasePos s) c found h.kind h.band h.along h.across .edge

/-- A feature held, and then the others. -/
theorem Emptied.cons {s u t : State} {tag : Tag} {e x : Entry} {b : Bank} {d : Decision} {h : HeldFeature}
    {held : List HeldFeature} (own : e.tag = tag) (settings : u.settings = s.settings)
    (others : othersStay tag s u)
    (classed : x = e.classed (b.classOf h.kind h.band .edge) d (featureSize h.along h.across)
      (featureArea h.along h.across))
    (first : Tallies (disarmFirst (.release tag) h.releasePos s) u tag e (b.classOf h.kind h.band .edge) d
      (featureSize h.along h.across) (featureArea h.along h.across))
    (rest : Emptied u t tag x b d held) : Emptied s t tag e b d (h :: held) := by
  have cancelled : routingKept tag s (disarmFirst (.release tag) h.releasePos s) :=
    disarmFirst_routingKept _ s (by simp) (by simp)
  have step : e.emptied b d (h :: held) = x.emptied b d held := by rw [classed]; rfl
  obtain ⟨k, entry⟩ : ∃ k, k = b.classOf h.kind h.band .edge := ⟨_, rfl⟩
  have any : e.fatalHeld b (h :: held) = (e.decision.isNone && (k.fatal || anyFatal b .edge held)) := by
    rw [entry]; rfl
  rw [← entry] at classed first
  refine ⟨step ▸ rest.found, fun fatal => ?_, fun quiet => ?_, ?_, fun j fire stamp release => ?_,
    fun unlisted => (rest.evaluator ?_).trans (first.evaluator unlisted), othersStay.trans others rest.entries⟩
  · rw [any, Bool.and_eq_true] at fatal
    have undecided : e.decision = none := by simpa using fatal.1
    by_cases now : k.fatal = true
    · have decided : x.fatalHeld b held = false := by
        rw [classed, classed_fatal now undecided]; rfl
      exact armsPositions_between (s := disarmFirst (.release tag) h.releasePos s) rfl (own ▸ cancelled)
        (own ▸ rest.quiet decided) (first.arms now undecided)
    · have later : k.fatal = false ∨ e.decision.isSome = true := .inl (by simpa using now)
      rw [classed, classed_quiet later] at rest
      have arms := rest.arms (by simpa [Entry.fatalHeld, Entry.tallied, undecided, now] using fatal.2)
      exact armsPositions_between (e := e) settings
        (own ▸ cancelled.trans (routingKept_of_watches (first.quiet later) tag)) (.refl e.tag _) arms
  · rw [any] at quiet
    have later : k.fatal = false ∨ e.decision.isSome = true := by
      cases undecided : e.decision with
      | none =>
        simp only [undecided, Option.isNone_none, Bool.true_and, Bool.or_eq_false_iff] at quiet
        exact .inl quiet.1
      | some d => exact .inr rfl
    have still : x.fatalHeld b held = false := by
      rw [classed, classed_quiet later]
      cases none_ : e.decision.isNone
      · simp [Entry.fatalHeld, Entry.tallied, none_]
      · simp only [none_, Bool.true_and, Bool.or_eq_false_iff] at quiet
        simp [Entry.fatalHeld, quiet.2]
    exact cancelled.trans ((routingKept_of_watches (first.quiet later) tag).trans (rest.quiet still))
  · rw [rest.releases, first.others _ (by simp) (by simp), ofKind_disarmFirst_self, List.map_cons, List.diff_cons]
  · rw [rest.others j fire stamp release, first.others j fire stamp, ofKind_disarmFirst release]
  · rw [first.evaluator unlisted]; exact unlisted

theorem emptyFold_empties (c : Ctx) (tag : Tag) : ∀ (held : List HeldFeature) (s : State) (e : Entry),
    findEntry tag s = some e →
    Emptied s (held.foldl (fun s h => tallyHeld c tag .edge h (disarmFirst (.release tag) h.releasePos s)) s) tag e
      (s.tables.bank e.bank) ((decisionBank s e).decide .fatal) held
  | [], s, e, found => by
    refine ⟨found, fun k => ?_, fun _ => .refl tag s, by simp, fun _ _ _ _ => rfl, fun _ => rfl, fun _ _ => rfl⟩
    simp [Entry.fatalHeld, anyFatal] at k
  | h :: held, s, e, found => by
    let m := disarmFirst (.release tag) h.releasePos s
    obtain ⟨u, next⟩ : ∃ u, u = tallyHeld c tag .edge h m := ⟨_, rfl⟩
    obtain ⟨x, classed⟩ : ∃ x, x = e.classed ((s.tables.bank e.bank).classOf h.kind h.band .edge)
        ((decisionBank s e).decide .fatal) (featureSize h.along h.across) (featureArea h.along h.across) := ⟨_, rfl⟩
    have first := tallyHeld_tallies c found h
    have leaves : Only [.entries, .evaluator, .watches] m u := next ▸ tallyHeld_only ..
    have others : othersStay tag m u := next ▸ tallyFeature_others c tag h.kind h.band h.along h.across .edge m
    have tables : u.tables = s.tables := leaves.tables rfl
    obtain ⟨bank, holding⟩ : x.bank = e.bank ∧ x.holding = e.holding := by rw [classed]; exact classed_bank ..
    have same : decisionBank u x = decisionBank s e := by unfold decisionBank; rw [tables, bank, holding]
    rw [← next] at first
    have rest := emptyFold_empties c tag held u x (classed ▸ first.found)
    rw [same, tables, bank] at rest
    rw [List.foldl_cons, ← next]
    exact rest.cons (Stable.findEntry_mem found).2 (leaves.settings.resolve_left (Part.unnamed rfl)) others classed first

/-- The Edge Hold List of a CLOSED entry emptied (R67). -/
theorem emptyHold_empties (c : Ctx) {tag : Tag} {s : State} {e : Entry} (found : findEntry tag s = some e) :
    Emptied s (emptyHold c tag s) tag { e with held := [] } (s.tables.bank e.bank) ((decisionBank s e).decide .fatal)
      e.held := by
  have foundM := findEntry_modifyEntry_self (f := fun x => { x with held := [] }) (fun _ => rfl) found
  have fold := emptyFold_empties c tag e.held (modifyEntry tag (fun x => { x with held := [] }) s) _ foundM
  have run : emptyHold c tag s =
      e.held.foldl (fun s h => tallyHeld c tag .edge h (disarmFirst (.release tag) h.releasePos s))
        (modifyEntry tag (fun x => { x with held := [] }) s) := withEntry_some found
  rw [run]
  obtain ⟨foundT, arms, quiet, releases, others, evaluator, entries⟩ := fold
  exact ⟨foundT, arms, quiet, releases, others, evaluator,
    othersStay.trans (modifyEntry_others (f := fun x => { x with held := [] }) (fun _ => rfl) s) entries⟩

/-- With every release position one of a feature held, none is left (R64, R67). -/
theorem Emptied.noRelease {s t : State} {tag : Tag} {e : Entry} {b : Bank} {d : Decision} {held : List HeldFeature}
    (h : Emptied s t tag e b d held) (kept : ((ofKind (.release tag) s).map (·.pos)).Perm (held.map (·.releasePos))) :
    unwatched t (.release tag) := by
  have none_ : (((ofKind (.release tag) t).map (·.pos) : List Position) : Multiset Position) = 0 := by
    rw [h.releases, ← Multiset.coe_sub, Multiset.coe_eq_coe.mpr kept, tsub_self]
  exact unwatched_iff_ofKind.mpr (List.map_eq_nil_iff.mp ((Multiset.coe_eq_zero _).mp none_))

/-! ### The settling of a CLOSED entry -/

theorem settleClosed_suspect (c : Ctx) {tag : Tag} {s : State} {e : Entry} (found : findEntry tag s = some e)
    (suspect : e.flags.suspect = true) :
    settleClosed c tag s = decideAs c ((decisionBank s e).decide .suspect) tag e s := by
  unfold settleClosed
  rw [withEntry_some found, ← decideEntry_found found]
  exact if_pos suspect

theorem settleClosed_decided (c : Ctx) {tag : Tag} {s : State} {e : Entry} (found : findEntry tag s = some e)
    (clear : e.flags.suspect = false) (decided : e.decision.isSome = true) : settleClosed c tag s = s := by
  unfold settleClosed
  rw [withEntry_some found]
  simp [clear, decided]

theorem settleClosed_listed (c : Ctx) {tag : Tag} {s : State} {e : Entry} (found : findEntry tag s = some e)
    (clear : e.flags.suspect = false) (undecided : e.decision = none) : settleClosed c tag s = listEntry tag s := by
  unfold settleClosed
  rw [withEntry_some found]
  simp [clear, undecided]

/-- A listed entry is taken at once by an IDLE evaluator without another one (R92, R93). -/
theorem listEntry_self {tag : Tag} {s : State} {e : Entry} (found : findEntry tag s = some e)
    (unlisted : tag ∉ s.evaluator.list) :
    findEntry tag (listEntry tag s) = some { e with
      evalStatus := if s.evaluator.inFlight = none ∧ s.evaluator.list = [] then .inEvaluation else .listed } := by
  let u := setEvalStatus .listed tag (s.setEvaluator { s.evaluator with list := s.evaluator.list ++ [tag] })
  have foundU : findEntry tag u = some { e with evalStatus := .listed } :=
    findEntry_modifyEntry_self (f := fun x => { x with evalStatus := .listed })
      (s := s.setEvaluator { s.evaluator with list := s.evaluator.list ++ [tag] }) (fun _ => rfl) found
  by_cases taken : s.evaluator.inFlight = none ∧ s.evaluator.list = []
  · have evaluator : u.evaluator = ⟨[tag], none⟩ := by
      show Evaluator.mk (s.evaluator.list ++ [tag]) s.evaluator.inFlight = _
      rw [taken.1, taken.2]; rfl
    have run := startEvaluation_takes evaluator foundU
    rw [if_pos taken]
    exact (congrArg (findEntry tag) run).trans (findEntry_modifyEntry_self
      (f := fun x => { x with evalStatus := .inEvaluation }) (s := u.setEvaluator ⟨[tag], some ⟨tag, e.bank⟩⟩)
      (e := { e with evalStatus := .listed }) (fun _ => rfl) foundU)
  · rw [if_neg taken]
    refine Eq.trans ?_ foundU
    cases flight : s.evaluator.inFlight with
    | some f =>
      exact congrArg (findEntry tag) (startEvaluation_idle (s := u) (.inr (congrArg Option.isSome flight)))
    | none =>
      refine startEvaluation_other (s := u) ?_
      show (s.evaluator.list ++ [tag]).head? ≠ some tag
      cases list : s.evaluator.list with
      | nil => exact absurd ⟨flight, list⟩ taken
      | cons y l =>
        rw [list] at unlisted
        exact fun head => unlisted (by simp_all)

theorem listEntry_list (tag : Tag) (s : State) : (listEntry tag s).evaluator.list = s.evaluator.list ++ [tag] :=
  startEvaluation_list _

theorem listEntry_watches (tag : Tag) (s : State) : (listEntry tag s).watches = s.watches :=
  (listEntry_only tag s).watches.resolve_left (Part.unnamed rfl)

/-- No other entry is taken when one is in evaluation, or none was listed (R93). -/
theorem listEntry_others {tag : Tag} {s : State} (h : s.evaluator.inFlight.isSome = true ∨ s.evaluator.list = []) :
    othersStay tag s (listEntry tag s) := by
  let u := setEvalStatus .listed tag (s.setEvaluator { s.evaluator with list := s.evaluator.list ++ [tag] })
  have marked : othersStay tag s u := modifyEntry_others (f := fun x => { x with evalStatus := .listed }) (fun _ => rfl)
    (s.setEvaluator { s.evaluator with list := s.evaluator.list ++ [tag] })
  refine othersStay.trans marked fun x n => ?_
  rcases h with flight | none_
  · exact congrArg (findEntry x) (startEvaluation_idle (s := u) (.inr flight))
  · refine startEvaluation_other (s := u) ?_
    show (s.evaluator.list ++ [tag]).head? ≠ some x
    rw [none_]
    exact fun head => n (Option.some.inj head).symm

/-! ### The end of the hold -/

/-- At the end of its need an entry stops holding its bank (R49); a ROUTE record may begin sending meanwhile (R134). -/
theorem endHold_ends (c : Ctx) {tag : Tag} {s : State} {e : Entry} (found : findEntry tag s = some e) :
    (∃ r, findEntry tag (endHold c tag s) = some { e with holding := e.holding && e.needsBank, route := r }) ∧
      ∀ k, k.isStale = false → ofKind k (endHold c tag s) = ofKind k s := by
  unfold endHold
  rw [withEntry_some found]
  by_cases ends : (e.holding && !e.needsBank) = true
  · rw [if_pos ends]
    have foundM := findEntry_modifyEntry_self (f := fun x => { x with holding := false }) (fun _ => rfl) found
    have sends := releaseHold_sends c e.bank (modifyEntry tag (fun x => { x with holding := false }) s)
    have free : (e.holding && e.needsBank) = false := by
      cases h : e.needsBank <;> simp_all
    obtain ⟨r, foundT⟩ := sends.findEntry foundM
    rw [free]
    exact ⟨⟨r, foundT⟩, fun k fresh => sends.ofKind fresh⟩
  · rw [if_neg ends]
    have same : (e.holding && e.needsBank) = e.holding := by
      cases h : e.holding <;> simp_all
    rw [same]
    exact ⟨⟨e.route, found⟩, fun _ _ => rfl⟩

theorem endHold_evaluator (c : Ctx) (tag : Tag) (s : State) : (endHold c tag s).evaluator = s.evaluator :=
  (endHold_only c tag s).evaluator.resolve_left (Part.unnamed rfl)

/-! ### The close handling -/

/-- Edge and state of a CLOSED entry (R42, step 1). -/
theorem closedAt_eq (e : Entry) (p : Position) : e.closedAt p = { e with
    state := .closed
    trailing := some (if before p e.leading then e.leading else p)
    flags := { e.flags with suspect := e.flags.suspect || before p e.leading } } := by
  unfold Entry.closedAt
  cases early : before p e.leading
  · simp
  · simp

/-- The entry once its Edge Hold List is empty: steps 1 to 3 of the close handling (R42). -/
def Entry.closedOut (s : State) (p : Position) (e : Entry) : Entry :=
  Entry.emptied (s.tables.bank e.bank) ((decisionBank s e).decide .fatal) e.held { e.closedAt p with held := [] }

theorem closedOut_eq (s : State) (p : Position) (e : Entry) : e.closedOut s p = { e.closedAt p with
    held := []
    tally := (e.closedOut s p).tally
    total := e.held.foldl (fun n _ => totalAfter n) e.total
    decision := if e.fatalHeld (s.tables.bank e.bank) e.held then some ((decisionBank s e).decide .fatal)
      else e.decision
    flags := { (e.closedAt p).flags with
      fatal := e.flags.fatal || e.fatalHeld (s.tables.bank e.bank) e.held }
    evalStatus := if e.fatalHeld (s.tables.bank e.bank) e.held && e.evalStatus = .listed then .none
      else e.evalStatus } := by
  obtain ⟨y, edge⟩ : ∃ y : Entry, y = { e.closedAt p with held := [] } := ⟨_, rfl⟩
  obtain ⟨d, decision⟩ : ∃ d, d = (decisionBank s e).decide .fatal := ⟨_, rfl⟩
  have out : e.closedOut s p = y.emptied (s.tables.bank e.bank) d e.held := by rw [edge, decision]; rfl
  have total : (e.closedOut s p).total = e.held.foldl (fun n _ => totalAfter n) e.total := by
    rw [out, emptied_total, edge, closedAt_eq]
  have fatal : y.fatalHeld (s.tables.bank e.bank) e.held = e.fatalHeld (s.tables.bank e.bank) e.held := by
    simp [edge, Entry.fatalHeld, closedAt_eq]
  have eq := out.trans (emptied_eq ..)
  rw [← out, fatal, total] at eq
  have source : d.source = .fatal := by rw [decision, decide_source]
  generalize (e.closedOut s p).tally = tally at eq ⊢
  rw [eq, ← decision, edge]
  by_cases decides : e.fatalHeld (s.tables.bank e.bank) e.held = true
  · simp [decides, closedAt_eq, Entry.decided, source]
  · simp [decides, closedAt_eq]

/-- The first two steps of the close handling: trailing edge, and its positions (R42). -/
def trailingTaken (c : Ctx) (e : Entry) (p : Position) (s : State) : State :=
  arm c (.retirement e.tag) ((e.closedAt p).trailing.getD e.leading + bu s.settings.retireDistance)
    (disarm (.overlength e.tag) (modifyEntry e.tag (fun x => x.closedAt p) s))

theorem closeEntry_found {s : State} {e : Entry} (found : findEntry e.tag s = some e) (c : Ctx) (p : Position) :
    closeEntry c e.tag p s =
      endHold c e.tag (settleClosed c e.tag (emptyHold c e.tag (trailingTaken c e p s))) := withEntry_some found

theorem trailingTaken_findEntry {s : State} {e : Entry} (found : findEntry e.tag s = some e) (c : Ctx) (p : Position) :
    findEntry e.tag (trailingTaken c e p s) = some (e.closedAt p) :=
  findEntry_modifyEntry_self (f := fun x => x.closedAt p) (fun x => by rw [closedAt_eq]) found

theorem trailingTaken_others (c : Ctx) (e : Entry) (p : Position) (s : State) :
    othersStay e.tag s (trailingTaken c e p s) :=
  modifyEntry_others (f := fun x => x.closedAt p) (fun x => by rw [closedAt_eq]) s

theorem trailingTaken_routingKept (c : Ctx) (e : Entry) (p : Position) (s : State) :
    routingKept e.tag s (trailingTaken c e p s) := by
  let m := modifyEntry e.tag (fun x => x.closedAt p) s
  exact routingKept.trans (s := m) (disarm_routingKept m (by simp) (by simp))
    (arm_routingKept _ _ _ (by simp) (by simp))

theorem trailingTaken_empties {s : State} {e : Entry} (found : findEntry e.tag s = some e) (c : Ctx) (p : Position) :
    Emptied (trailingTaken c e p s) (emptyHold c e.tag (trailingTaken c e p s)) e.tag { e.closedAt p with held := [] }
      (s.tables.bank e.bank) ((decisionBank s e).decide .fatal) e.held := by
  have emptied := emptyHold_empties c (trailingTaken_findEntry found c p)
  have tables : (trailingTaken c e p s).tables = s.tables := rfl
  have bank : decisionBank (trailingTaken c e p s) (e.closedAt p) = decisionBank s e := by
    rw [closedAt_eq]; rfl
  have own : (e.closedAt p).bank = e.bank ∧ (e.closedAt p).held = e.held := by rw [closedAt_eq]; exact ⟨rfl, rfl⟩
  rw [bank, tables] at emptied
  rw [← own.1, ← own.2]
  exact emptied

theorem emptied_findEntry {s : State} {e : Entry} (found : findEntry e.tag s = some e) (c : Ctx) (p : Position) :
    findEntry e.tag (emptyHold c e.tag (trailingTaken c e p s)) = some (e.closedOut s p) :=
  (trailingTaken_empties found c p).found

/-- What a decision arms rests on these fields of its entry only (R130, R149). -/
theorem armsPositions_entry {s t : State} {x e : Entry} {gate : Fin 6} (tag : x.tag = e.tag)
    (leading : x.leading = e.leading) (route : x.route = e.route) (diverted : x.flags.diverted = e.flags.diverted)
    (decision : x.decision = e.decision) (h : armsPositions s t x gate) : armsPositions s t e gate := by
  unfold armsPositions at h ⊢
  rwa [tag, leading, route, diverted, decision] at h

/-- What the settling of a CLOSED entry `x` leaves of it (R42, steps 4 to 6). -/
structure Settled (s t : State) (x y : Entry) : Prop where
  found : findEntry x.tag t = some y
  same : y = { x with flags := y.flags, decision := y.decision, evalStatus := y.evalStatus }
  flags : y.flags = x.flags
  watches : othersWatched x.tag s t

/-- What the close handling leaves of an entry: edges, state, tally and flags as its Edge Hold List and its trailing edge
say, and its positions (R42). -/
structure Closes (s t : State) (e : Entry) (p : Position) (x : Entry) : Prop where
  found : findEntry e.tag t = some x
  same : x = { e.closedOut s p with
    decision := x.decision, evalStatus := x.evalStatus, route := x.route, holding := x.holding }
  releases : releasesKept e s → unwatched t (.release e.tag)
  retirement : watched t (.retirement e.tag) ((e.closedAt p).trailing.getD e.leading + bu s.settings.retireDistance)
  overlength : unwatched t (.overlength e.tag)

/-- The end of its hold ends the close handling of a settled entry (R49). -/
theorem closes_of_settled {c : Ctx} {p : Position} {s m v : State} {e x y : Entry} (found : findEntry e.tag s = some e)
    (empty : m = emptyHold c e.tag (trailingTaken c e p s)) (out : x = e.closedOut s p) (settled : Settled m v x y) :
    ∃ z, Closes s (endHold c e.tag v) e p z ∧ z.decision = y.decision ∧ z.evalStatus = y.evalStatus ∧
      z.holding = (y.holding && y.needsBank) ∧ routingKept e.tag v (endHold c e.tag v) := by
  subst empty out
  have own : (e.closedOut s p).tag = e.tag := by rw [closedOut_eq, closedAt_eq]
  have emptied := trailingTaken_empties found c p
  obtain ⟨foundV, same, flags, watches⟩ := settled
  rw [own] at foundV watches
  obtain ⟨⟨r, foundT⟩, kept⟩ := endHold_ends c foundV
  have all : ∀ k, k ≠ .fire e.tag → k ≠ .stampStart e.tag → k ≠ .release e.tag → k.isStale = false →
      ofKind k (endHold c e.tag v) = ofKind k (trailingTaken c e p s) := fun k fire stamp release fresh =>
    (kept k fresh).trans ((watches k fire stamp).trans (emptied.others k fire stamp release))
  refine ⟨_, ⟨foundT, ?_, fun releases => ?_, ?_, ?_⟩, rfl, rfl, rfl, fun q => ?_⟩
  · rw [same, flags]
  · have none_ := emptied.noRelease (by
      have before : ofKind (.release e.tag) (trailingTaken c e p s) = ofKind (.release e.tag) s :=
        (ofKind_arm (by simp) _ _ _).trans (ofKind_disarm (by simp) _)
      rw [before]; exact releases)
    rw [unwatched_iff_ofKind] at none_ ⊢
    exact (kept _ rfl).trans ((watches _ (by simp) (by simp)).trans none_)
  · have armed : watched (trailingTaken c e p s) (.retirement e.tag) _ := watched_arm ..
    rw [watched_iff_ofKind] at armed ⊢
    rwa [all _ (by simp) (by simp) (by simp) rfl]
  · have cancelled : unwatched (trailingTaken c e p s) (.overlength e.tag) :=
      unwatched_arm (by simp) (unwatched_disarm _ _)
    rw [unwatched_iff_ofKind] at cancelled ⊢
    rwa [all _ (by simp) (by simp) (by simp) rfl]
  · simp only [watched_iff_ofKind, kept (.fire e.tag) rfl, kept (.stampStart e.tag) rfl, and_self]

/-- What a close leaves the other entries and the evaluator, when none of them is concerned. -/
structure Aside (s t : State) (e : Entry) : Prop where
  evaluator : e.tag ∉ s.evaluator.list → t.evaluator = s.evaluator
  entries : linkAtRest s → othersStay e.tag s t

theorem emptied_leaves (c : Ctx) (e : Entry) (p : Position) (s : State) :
    Only [.entries, .evaluator, .watches] s (emptyHold c e.tag (trailingTaken c e p s)) :=
  .via (emptyHold_only ..) rfl (.via (arm_only ..) rfl (.via (disarm_only ..) rfl (.via
    (modifyEntry_only e.tag (fun x => x.closedAt p) s (Entry.closedAt_keeps p)) rfl (.refl ..))))

/-- The first three steps of the close handling concern no other entry, and the evaluator only by a listed one. -/
theorem emptied_aside {s : State} {e : Entry} (found : findEntry e.tag s = some e) (c : Ctx) (p : Position) :
    Aside s (emptyHold c e.tag (trailingTaken c e p s)) e :=
  ⟨(trailingTaken_empties found c p).evaluator,
    fun _ => othersStay.trans (trailingTaken_others c e p s) (trailingTaken_empties found c p).entries⟩

/-- The end of the hold concerns no other entry either. -/
theorem Aside.ends {s v : State} {e : Entry} (h : Aside s v e) (rest : linkAtRest s → linkAtRest v) (c : Ctx) :
    Aside s (endHold c e.tag v) e :=
  ⟨fun unlisted => (endHold_evaluator ..).trans (h.evaluator unlisted),
    fun r => othersStay.trans (h.entries r) fun _ n => (endHold_apart n c (rest r)).entry⟩

theorem closedOut_decisionBank {s m : State} (tables : m.tables = s.tables) (e : Entry) (p : Position) :
    decisionBank m (e.closedOut s p) = decisionBank s e := by
  unfold decisionBank; rw [tables, closedOut_eq, closedAt_eq]

/-- A CLOSED entry that is decided stops holding its bank at the end of the close handling (R49). -/
theorem holding_ends {e : Entry} (closed : e.state = .closed) (decided : e.decision.isSome = true)
    (status : e.evalStatus ≠ .inEvaluation) : (e.holding && e.needsBank) = false := by
  rw [needsBank_false (by simp [Entry.isOpen, closed]) decided status, Bool.and_false]

/-- A decision once the Edge Hold List is empty, in place of the FATAL one of a feature held, or the first (R130, R149). -/
theorem armsPositions_closed {c : Ctx} {p : Position} {s v : State} {e : Entry} {gate : Fin 6}
    (found : findEntry e.tag s = some e)
    (after : armsPositions (emptyHold c e.tag (trailingTaken c e p s)) v (e.closedOut s p) gate) :
    armsPositions s v e gate := by
  have emptied := trailingTaken_empties found c p
  have first := trailingTaken_routingKept c e p s
  have settings := (emptied_leaves c e p s).settings.resolve_left (Part.unnamed rfl)
  have closed := closedOut_eq s p e
  generalize e.closedOut s p = x at *
  generalize emptyHold c e.tag (trailingTaken c e p s) = m at *
  have own : x.tag = e.tag := by rw [closed, closedAt_eq]
  have leading : x.leading = e.leading := by rw [closed, closedAt_eq]
  have route : x.route = e.route := by rw [closed, closedAt_eq]
  have diverted : x.flags.diverted = e.flags.diverted := by rw [closed, closedAt_eq]
  by_cases fatal : e.fatalHeld (s.tables.bank e.bank) e.held = true
  · have before : armsPositions (trailingTaken c e p s) m e ((decisionBank s e).decide .fatal).gate :=
      armsPositions_entry (by rw [closedAt_eq]) (by rw [closedAt_eq]) (by rw [closedAt_eq]) (by rw [closedAt_eq])
        (by rw [closedAt_eq]) (emptied.arms (by simpa [closedAt_eq, Entry.fatalHeld] using fatal))
    have again : armsPositions (trailingTaken c e p s) v e gate :=
      armsPositions_again settings own leading route diverted (by rw [closed, if_pos fatal]; rfl) before after
    exact armsPositions_between (s := trailingTaken c e p s) rfl first (.refl e.tag v) again
  · have quiet := emptied.quiet (by simpa [closedAt_eq, Entry.fatalHeld] using fatal)
    have now : armsPositions m v e gate :=
      armsPositions_entry own leading route diverted (by rw [closed, if_neg fatal]) after
    exact armsPositions_between settings (first.trans quiet) (.refl e.tag v) now

/-- A suspect sheet is decided SUSPECT at its close (R42, step 4). -/
theorem closeEntry_suspect (c : Ctx) (p : Position) {s : State} {e : Entry} (found : findEntry e.tag s = some e)
    (suspect : (e.closedAt p).flags.suspect = true) :
    ∃ x, Closes s (closeEntry c e.tag p s) e p x ∧ x.decision = some ((decisionBank s e).decide .suspect) ∧
      armsPositions s (closeEntry c e.tag p s) e ((decisionBank s e).decide .suspect).gate ∧
      (e.evalStatus = .none → x.holding = false) ∧ Aside s (closeEntry c e.tag p s) e := by
  obtain ⟨m, emptiedEq⟩ : ∃ m, m = emptyHold c e.tag (trailingTaken c e p s) := ⟨_, rfl⟩
  obtain ⟨x, out⟩ : ∃ x, x = e.closedOut s p := ⟨_, rfl⟩
  obtain ⟨d, decision⟩ : ∃ d, d = (decisionBank s e).decide .suspect := ⟨_, rfl⟩
  have source : d.source = .suspect := by rw [decision, decide_source]
  have foundM : findEntry e.tag m = some x := emptiedEq ▸ out ▸ emptied_findEntry found c p
  have own : x.tag = e.tag := (Stable.findEntry_mem foundM).2
  have emptied := trailingTaken_empties found c p
  have aside := emptied_aside found c p
  have leaves := emptied_leaves c e p s
  have closed := closedOut_eq s p e
  rw [← emptiedEq] at emptied aside leaves
  rw [← out] at closed
  have settle : settleClosed c e.tag m = decideAs c d e.tag x m := by
    have bank : decisionBank m x = decisionBank s e := out ▸ closedOut_decisionBank (leaves.tables rfl) e p
    rw [decision, ← bank]
    exact settleClosed_suspect c foundM (by rw [closed]; exact suspect)
  have settled : Settled m (decideAs c d e.tag x m) x (x.decided d) := by
    refine ⟨own ▸ (decideAs_self c d x foundM).1, ?_, ?_, own ▸ decideAs_othersWatched c d e.tag x m⟩
    · rw [decided_suspect source]
    · rw [decided_suspect source]
  obtain ⟨z, closes, decided, -, holding, kept⟩ := closes_of_settled found emptiedEq out settled
  have rest : linkAtRest s → linkAtRest (decideAs c d e.tag x m) := fun r =>
    (decideAs_flightKept c d e.tag x (linkAtRest_only leaves (by simp) (by simp) r)).2
  have asideV : Aside s (decideAs c d e.tag x m) e :=
    ⟨fun unlisted => by
        have same := aside.evaluator unlisted
        rw [← same] at unlisted ⊢
        rw [decideAs_list, filter_absent unlisted],
      fun r => othersStay.trans (aside.entries r) (decideAs_others c d e.tag x m)⟩
  rw [closeEntry_found found, ← emptiedEq, settle, ← decision]
  refine ⟨z, closes, decided, ?_, fun status => ?_, asideV.ends rest c⟩
  · have after : armsPositions m (decideAs c d e.tag x m) x d.gate :=
      decideAs_arms c d x foundM own rfl rfl rfl rfl
    rw [emptiedEq, out] at after kept ⊢
    exact armsPositions_between (t := decideAs c d e.tag (e.closedOut s p) _) rfl (.refl e.tag s) kept
      (armsPositions_closed found after)
  · have none_ : x.evalStatus = .none := by rw [closed]; simp [status]
    rw [holding, holding_ends _ rfl]
    · simp [Entry.decided, none_]
    · rw [decided_suspect source, closed, closedAt_eq]

/-- A sheet decided before its close, or FATAL by a feature held, stays as it is (R42, step 5). -/
theorem closeEntry_decided (c : Ctx) (p : Position) {s : State} {e : Entry} (found : findEntry e.tag s = some e)
    (clear : (e.closedAt p).flags.suspect = false)
    (decided : e.fatalHeld (s.tables.bank e.bank) e.held = true ∨ e.decision.isSome = true) :
    ∃ x, Closes s (closeEntry c e.tag p s) e p x ∧
      x.decision = (if e.fatalHeld (s.tables.bank e.bank) e.held then some ((decisionBank s e).decide .fatal)
        else e.decision) ∧
      (e.fatalHeld (s.tables.bank e.bank) e.held = true →
        armsPositions s (closeEntry c e.tag p s) e ((decisionBank s e).decide .fatal).gate) ∧
      (e.evalStatus = .none → x.holding = false) ∧ Aside s (closeEntry c e.tag p s) e := by
  obtain ⟨m, emptiedEq⟩ : ∃ m, m = emptyHold c e.tag (trailingTaken c e p s) := ⟨_, rfl⟩
  obtain ⟨x, out⟩ : ∃ x, x = e.closedOut s p := ⟨_, rfl⟩
  have foundM : findEntry e.tag m = some x := emptiedEq ▸ out ▸ emptied_findEntry found c p
  have own : x.tag = e.tag := (Stable.findEntry_mem foundM).2
  have emptied := trailingTaken_empties found c p
  have aside := emptied_aside found c p
  have leaves := emptied_leaves c e p s
  have closed := closedOut_eq s p e
  rw [← emptiedEq] at emptied aside leaves
  rw [← out] at closed
  have some_ : x.decision.isSome = true := by
    rw [closed]
    rcases decided with fatal | before
    · rw [if_pos fatal]; rfl
    · dsimp only; split
      · rfl
      · exact before
  have settle : settleClosed c e.tag m = m := settleClosed_decided c foundM (by rw [closed]; exact clear) some_
  have settled : Settled m m x x := ⟨own ▸ foundM, rfl, rfl, fun _ _ _ => rfl⟩
  obtain ⟨z, closes, decision, -, holding, kept⟩ := closes_of_settled found emptiedEq out settled
  rw [closeEntry_found found, ← emptiedEq, settle]
  refine ⟨z, closes, decision.trans (by rw [closed]), fun fatal => ?_, fun status => ?_,
    aside.ends (linkAtRest_only leaves (by simp) (by simp)) c⟩
  · have armed : armsPositions (trailingTaken c e p s) m e ((decisionBank s e).decide .fatal).gate :=
      armsPositions_entry (by rw [closedAt_eq]) (by rw [closedAt_eq]) (by rw [closedAt_eq]) (by rw [closedAt_eq])
        (by rw [closedAt_eq]) (emptied.arms (by simpa [closedAt_eq, Entry.fatalHeld] using fatal))
    exact armsPositions_between (s := trailingTaken c e p s) rfl (trailingTaken_routingKept c e p s) kept armed
  · rw [holding, holding_ends (by rw [closed, closedAt_eq]) some_]
    rw [closed]; simp [status]

/-- Any other sheet joins the Grading List, and is taken at once by an IDLE evaluator (R42, step 6). -/
theorem closeEntry_listed (c : Ctx) (p : Position) {s : State} {e : Entry} (found : findEntry e.tag s = some e)
    (clear : (e.closedAt p).flags.suspect = false) (quiet : e.fatalHeld (s.tables.bank e.bank) e.held = false)
    (undecided : e.decision = none) (unlisted : e.tag ∉ s.evaluator.list) :
    ∃ x, Closes s (closeEntry c e.tag p s) e p x ∧ x.decision = none ∧
      x.evalStatus = (if s.evaluator.inFlight = none ∧ s.evaluator.list = [] then .inEvaluation else .listed) ∧
      (closeEntry c e.tag p s).evaluator.list = s.evaluator.list ++ [e.tag] ∧
      (s.evaluator.inFlight.isSome = true ∨ s.evaluator.list = [] → linkAtRest s →
        othersStay e.tag s (closeEntry c e.tag p s)) := by
  obtain ⟨m, emptiedEq⟩ : ∃ m, m = emptyHold c e.tag (trailingTaken c e p s) := ⟨_, rfl⟩
  obtain ⟨x, out⟩ : ∃ x, x = e.closedOut s p := ⟨_, rfl⟩
  have foundM : findEntry e.tag m = some x := emptiedEq ▸ out ▸ emptied_findEntry found c p
  have own : x.tag = e.tag := (Stable.findEntry_mem foundM).2
  have aside := emptied_aside found c p
  have leaves := emptied_leaves c e p s
  have closed := closedOut_eq s p e
  rw [← emptiedEq] at aside leaves
  rw [← out] at closed
  have evaluator : m.evaluator = s.evaluator := aside.evaluator unlisted
  have none_ : x.decision = none := by rw [closed]; simp [quiet, undecided]
  have settle : settleClosed c e.tag m = listEntry e.tag m :=
    settleClosed_listed c foundM (by rw [closed]; exact clear) none_
  have settled : Settled m (listEntry e.tag m) x { x with
      evalStatus := if m.evaluator.inFlight = none ∧ m.evaluator.list = [] then .inEvaluation else .listed } :=
    ⟨own.symm ▸ listEntry_self foundM (evaluator ▸ unlisted), rfl, rfl,
      fun k _ _ => ofKind_congr (listEntry_watches ..) k⟩
  obtain ⟨z, closes, decision, status, -, -⟩ := closes_of_settled found emptiedEq out settled
  rw [closeEntry_found found, ← emptiedEq, settle]
  refine ⟨z, closes, decision.trans none_, ?_, ?_, fun idle rest x n => ?_⟩
  · rw [status, evaluator]
  · rw [endHold_evaluator, listEntry_list, evaluator]
  · have restM : linkAtRest m := linkAtRest_only leaves (by simp) (by simp) rest
    have restL : linkAtRest (listEntry e.tag m) := linkAtRest_only (listEntry_only ..) (by simp) (by simp) restM
    have listed := listEntry_others (tag := e.tag) (evaluator.symm ▸ idle) x n
    exact (endHold_apart n c restL).entry.trans (listed.trans (aside.entries rest x n))

/-- The close handling of an entry that is neither listed nor in evaluation (R42, R73). -/
theorem closeEntry_closes (c : Ctx) (p : Position) {s : State} {e : Entry} (found : findEntry e.tag s = some e)
    (status : e.evalStatus = .none) (unlisted : e.tag ∉ s.evaluator.list) :
    ∃ x, Closes s (closeEntry c e.tag p s) e p x ∧
      (s.evaluator.inFlight.isSome = true ∨ s.evaluator.list = [] → linkAtRest s →
        othersStay e.tag s (closeEntry c e.tag p s)) ∧
      ((e.closedAt p).flags.suspect = true → x.holding = false ∧
        x.decision = some ((decisionBank s e).decide .suspect) ∧
        (closeEntry c e.tag p s).evaluator.list = s.evaluator.list ∧
        armsPositions s (closeEntry c e.tag p s) e ((decisionBank s e).decide .suspect).gate) ∧
      ((e.closedAt p).flags.suspect = false → e.fatalHeld (s.tables.bank e.bank) e.held = true → x.holding = false ∧
        x.decision = some ((decisionBank s e).decide .fatal) ∧
        (closeEntry c e.tag p s).evaluator.list = s.evaluator.list ∧
        armsPositions s (closeEntry c e.tag p s) e ((decisionBank s e).decide .fatal).gate) ∧
      ((e.closedAt p).flags.suspect = false → e.decision.isSome = true → x.holding = false ∧
        x.decision = e.decision ∧ (closeEntry c e.tag p s).evaluator.list = s.evaluator.list) ∧
      ((e.closedAt p).flags.suspect = false → e.fatalHeld (s.tables.bank e.bank) e.held = false → e.decision = none →
        x.decision = none ∧ (closeEntry c e.tag p s).evaluator.list = s.evaluator.list ++ [e.tag] ∧
        x.evalStatus =
          (if s.evaluator.inFlight = none ∧ s.evaluator.list = [] then .inEvaluation else .listed)) := by
  by_cases suspect : (e.closedAt p).flags.suspect = true
  · obtain ⟨x, closes, decision, arms, ends, aside⟩ := closeEntry_suspect c p found suspect
    have list := congrArg Evaluator.list (aside.evaluator unlisted)
    have absurd_ : ∀ {P : Prop}, (e.closedAt p).flags.suspect = false → P := fun clear => by
      rw [suspect] at clear; cases clear
    exact ⟨x, closes, fun _ => aside.entries, fun _ => ⟨ends status, decision, list, arms⟩, absurd_, absurd_, absurd_⟩
  have clear : (e.closedAt p).flags.suspect = false := by simpa using suspect
  by_cases decided : e.fatalHeld (s.tables.bank e.bank) e.held = true ∨ e.decision.isSome = true
  · obtain ⟨x, closes, decision, arms, ends, aside⟩ := closeEntry_decided c p found clear decided
    have list := congrArg Evaluator.list (aside.evaluator unlisted)
    refine ⟨x, closes, fun _ => aside.entries, fun k => absurd k suspect, fun _ fatal => ?_, fun _ before => ?_,
      fun _ quiet none_ => ?_⟩
    · exact ⟨ends status, decision.trans (if_pos fatal), list, arms fatal⟩
    · have quiet : ¬ e.fatalHeld (s.tables.bank e.bank) e.held = true := by
        simp [Entry.fatalHeld, Option.isSome_iff_ne_none.mp before]
      exact ⟨ends status, decision.trans (if_neg quiet), list⟩
    · rw [quiet, none_] at decided
      simp at decided
  · obtain ⟨fatal, before⟩ := not_or.mp decided
    have quiet : e.fatalHeld (s.tables.bank e.bank) e.held = false := by simpa using fatal
    have undecided : e.decision = none := by simpa using before
    obtain ⟨x, closes, decision, evaluated, list, others⟩ := closeEntry_listed c p found clear quiet undecided unlisted
    exact ⟨x, closes, others, fun k => absurd k suspect, fun _ k => absurd k fatal, fun _ k => absurd k before,
      fun _ _ _ => ⟨decision, list, evaluated⟩⟩

/-- The fields of an entry that its close sets, whatever it is decided (R42, R67, R73). -/
theorem Closes.fields {s t : State} {e x : Entry} {p : Position} (h : Closes s t e p x) :
    x.state = .closed ∧ x.trailing = some (if before p e.leading then e.leading else p) ∧ x.last = e.last ∧
      x.held = [] ∧ x.total = e.held.foldl (fun n _ => totalAfter n) e.total ∧
      (∀ k, x.tally.get k = e.held.foldl (tallyAfter (s.tables.bank e.bank) .edge k) (e.tally.get k)) ∧
      x.flags = { e.flags with
        suspect := e.flags.suspect || before p e.leading
        fatal := e.flags.fatal || e.fatalHeld (s.tables.bank e.bank) e.held } := by
  have tally : ∀ k, (e.closedOut s p).tally.get k =
      e.held.foldl (tallyAfter (s.tables.bank e.bank) .edge k) ((e.closedAt p).tally.get k) := fun k =>
    emptied_tally (s.tables.bank e.bank) _ k e.held _
  rw [closedAt_eq] at tally
  have same := h.same
  rw [closedOut_eq, closedAt_eq] at same
  refine ⟨?_, ?_, ?_, ?_, ?_, fun k => ?_, ?_⟩
  · rw [same]
  · rw [same]
  · rw [same]
  · rw [same]
  · rw [same]
  · rw [← tally k, same]
  · rw [same]

/-! ### A CLOSE taken -/

/-- A CLOSE that matches an entry first marks it, when it names another last lane (R40). -/
theorem takeClose_matched {first last : Lane} {offset : Byte} {stamp : Position} {s : State} {e : Entry}
    (matched : s.tracker.sheets.find? (fun x => x.isOpen && x.first = first) = some e) :
    takeClose first last offset stamp s = closeEntry (Ctx.now s) e.tag (placed s stamp offset)
      (if e.last = last then s else markSuspect (Ctx.now s) id e.tag s) := by
  unfold takeClose
  rw [matched]

/-- The entry of a CLOSE with this last lane, as the close handling finds it (R40). -/
def Entry.named (last : Lane) (e : Entry) : Entry :=
  { e with flags := { e.flags with suspect := decide (last ≠ e.last) || e.flags.suspect } }

/-- A CLOSE with another last lane sets the suspect flag of its entry, and nothing else (R40, Table 3-4). -/
theorem named_entry (c : Ctx) (last : Lane) {s : State} {e : Entry} (found : findEntry e.tag s = some e)
    (isOpen : e.isOpen = true) :
    ∃ t, t = (if e.last = last then s else markSuspect c id e.tag s) ∧ findEntry e.tag t = some (e.named last) ∧
      Only [.entries] s t ∧ othersStay e.tag s t := by
  by_cases same : e.last = last
  · refine ⟨s, (if_pos same).symm, ?_, .refl .., fun _ _ => rfl⟩
    have unchanged : e.named last = e := by
      have flags : (e.named last).flags = e.flags := by simp [Entry.named, same]
      calc e.named last = { e with flags := (e.named last).flags } := rfl
        _ = e := by rw [flags]
    rw [unchanged]; exact found
  · refine ⟨modifyEntry e.tag (Entry.marked id) s, ?_, ?_, ?_, modifyEntry_others (Entry.marked_tag id) s⟩
    · rw [if_neg same, markSuspect_open found isOpen]
    · have marked : e.named last = e.marked id := by simp [Entry.named, Entry.marked, Ne.symm same]
      rw [marked]; exact findEntry_modifyEntry_self (Entry.marked_tag id) found
    · exact modifyEntry_only _ _ _ fun _ => ⟨rfl, rfl, rfl⟩

/-- The silence position aside, the scan port's own arming changes no position (R17). -/
theorem armSilence_ofKind {k : WatchKind} (s : State) (n : k ≠ .silence) : ofKind k (armSilence s) = ofKind k s :=
  (ofKind_arm n.symm _ _ _).trans (ofKind_disarm n _)

/-- Settles O27: suspect, decided before or by a feature held, and listed. -/
theorem closeEndsTheSheet : Obligations.CloseEndsTheSheet := by
  intro s e last offset taken d matched ok status unlisted
  let a := armSilence s
  let p := placed s s.position.belt offset
  obtain ⟨member, isOpen⟩ : e ∈ s.tracker.sheets ∧ e.isOpen = true := by
    have both := List.find?_some matched
    exact ⟨List.mem_of_find?_eq_some matched, by simpa using both⟩
  have row : traffic s (.closeSheet s.scan.deckValue e.first last offset) = some (s.scan.deckValue, true) :=
    congrArg (fun b => some (s.scan.deckValue, b)) ok
  obtain ⟨u, named, found, only, others⟩ := named_entry (Ctx.now a) last (s := a) (findEntry_self (s := a) d member) isOpen
  have run : exec (.closeSheet s.scan.deckValue e.first last offset) s =
      .next (closeEntry (Ctx.now a) e.tag p u) := by
    rw [exec_accepted taken row, named]
    exact congrArg Host.Outcome.next (takeClose_matched (s := a) matched)
  obtain ⟨n, name⟩ : ∃ n, n = e.named last := ⟨_, rfl⟩
  have tables : u.tables = s.tables := only.tables rfl
  have settings : u.settings = s.settings := only.settings.resolve_left (Part.unnamed rfl)
  have evaluator : u.evaluator = s.evaluator := only.evaluator.resolve_left (Part.unnamed rfl)
  have watches : u.watches = a.watches := only.watches.resolve_left (Part.unnamed rfl)
  have rest : linkAtRest s → linkAtRest u := linkAtRest_only (s := a) only (by simp) (by simp)
  have own : n.tag = e.tag := by rw [name]; rfl
  have flags : n.flags = { e.flags with suspect := decide (last ≠ e.last) || e.flags.suspect } := by rw [name]; rfl
  have decides : decisionBank u n = decisionBank s e := by rw [name]; unfold decisionBank; rw [tables]; rfl
  have fatalEq : n.fatalHeld (u.tables.bank n.bank) n.held =
      (e.decision.isNone && anyFatal (s.tables.bank e.bank) .edge e.held) := by rw [name, tables]; rfl
  have arms : ∀ {t gate}, armsPositions u t n gate → armsPositions s t e gate := fun h =>
    armsPositions_between settings
      ((armSilence_routingKept e.tag s).trans (routingKept_of_watches watches e.tag)) (.refl e.tag _)
      (armsPositions_entry own (by rw [name]; rfl) (by rw [name]; rfl) (by rw [name]; rfl) (by rw [name]; rfl) h)
  have foundN : findEntry n.tag u = some n := by rw [own, name]; exact found
  have suspectEq : (n.closedAt p).flags.suspect =
      (decide (last ≠ e.last) || e.flags.suspect || before p e.leading) := by
    rw [closedAt_eq, name]; rfl
  obtain ⟨x, closes, aside, suspect, fatal, decided, listed⟩ := closeEntry_closes (Ctx.now a) p foundN
    (by rw [name]; exact status) (by rw [own, evaluator]; exact unlisted)
  rw [own] at closes aside suspect fatal decided listed
  rw [suspectEq] at suspect fatal decided listed
  rw [decides] at suspect fatal
  rw [fatalEq] at fatal listed
  rw [evaluator] at aside suspect fatal decided listed
  obtain ⟨state, trailing, lastX, held, total, tally, flagsX⟩ := closes.fields
  have flagsT : x.flags = { e.flags with
      suspect := decide (last ≠ e.last) || e.flags.suspect || before p e.leading
      fatal := e.flags.fatal || (e.decision.isNone && anyFatal (s.tables.bank e.bank) .edge e.held) } := by
    rw [flagsX, fatalEq, flags, name]; rfl
  have clear : (decide (last ≠ e.last) || e.flags.suspect || before p e.leading) = false →
      (decide (last ≠ e.last) || e.flags.suspect || before p e.leading) = e.flags.suspect := fun k => by
    simp only [Bool.or_eq_false_iff] at k
    simp [k]
  obtain ⟨foundT, -, releases, retirement, overlength⟩ := closes
  refine ⟨_, x, _, _, _, run, own ▸ foundT, rfl, rfl, rfl, state, trailing.trans (by rw [name]; rfl),
    lastX.trans (by rw [name]; rfl), held, fun k => (tally k).trans (by rw [tables, name]; rfl),
    total.trans (by rw [name]; rfl), fun kept => ?_, ?_, ?_, fun idle r => ?_, fun k => ?_, fun k fatalK => ?_,
    fun k decidedK => ?_, fun k quiet none_ => ?_⟩
  · refine own ▸ releases ?_
    have same : ofKind (.release e.tag) u = ofKind (.release e.tag) s :=
      (ofKind_congr watches _).trans (armSilence_ofKind s (by simp))
    have held : n.held = e.held := by rw [name]; rfl
    unfold releasesKept
    rw [own, held]
    exact (congrArg (List.map (·.pos)) same) ▸ kept
  · rw [closedAt_eq, own, settings, name] at retirement
    exact retirement
  · exact own ▸ overlength
  · exact othersStay.trans (s := a) others (aside idle (rest r))
  · obtain ⟨ends, decision, list, armed⟩ := suspect k
    exact ⟨by rw [flagsT]; exact k, by rw [flagsT], ends, decision, list, arms armed⟩
  · obtain ⟨ends, decision, list, armed⟩ := fatal k fatalK
    exact ⟨by rw [flagsT, fatalK, Bool.or_true, clear k], ends, decision, list, arms armed⟩
  · obtain ⟨ends, decision, list⟩ := decided k (by rw [name]; exact decidedK)
    have quiet : (e.decision.isNone && anyFatal (s.tables.bank e.bank) .edge e.held) = false := by
      simp [Option.isSome_iff_ne_none.mp decidedK]
    exact ⟨by rw [flagsT, quiet, Bool.or_false, clear k], ends, decision.trans (by rw [name]; rfl), list⟩
  · obtain ⟨decision, list, evaluated⟩ := listed k quiet (by rw [name]; exact none_)
    exact ⟨by rw [flagsT, quiet, Bool.or_false, clear k], decision, list, evaluated⟩

/-! ### The overlength position -/

/-- An edge behind the leading edge by less than half the belt counter is not before it (R24). -/
theorem not_before_add (leading : Position) (length : Word) : before (leading + bu length) leading = false := by
  unfold before bu
  have short := length.isLt
  rw [Bool.and_eq_false_iff]
  by_cases none_ : leading + length.setWidth 32 = leading
  · exact .inl (by simp [none_])
  · refine .inr ?_
    rw [decide_eq_false_iff_not]
    bv_omega

/-- A forced close for a cause of its own: suspect with that flag, and decided SUSPECT (R36, R42, R43, R44). -/
theorem closeEntry_marked (c : Ctx) (own : EntryFlags → EntryFlags) (p : Position) {s : State} {e : Entry}
    (found : findEntry e.tag s = some (e.marked own)) :
    ∃ x d, Closes s (closeEntry c e.tag p s) (e.marked own) p x ∧ x.decision = some d ∧ d.source = .suspect ∧
      d.grade = 13 ∧ x.flags.suspect = true ∧ Aside s (closeEntry c e.tag p s) (e.marked own) := by
  have suspect : ((e.marked own).closedAt p).flags.suspect = true := by rw [closedAt_eq]; rfl
  obtain ⟨x, closes, decision, -, -, aside⟩ := closeEntry_suspect c p (e := e.marked own) found suspect
  obtain ⟨-, -, -, -, -, -, flags⟩ := closes.fields
  exact ⟨x, _, closes, decision, decide_source .., rfl, by rw [flags]; rfl, aside⟩

theorem overlengthReached_open {tag : Tag} {w : Watch} {s : State} {e : Entry} (found : findEntry tag s = some e)
    (isOpen : e.isOpen = true) :
    overlengthReached tag w s = closeEntry (Ctx.at .tracker w.pos) tag (e.leading + bu s.settings.maxSheetLength)
      (raise (Ctx.at .tracker w.pos) .overlength
        (modifyEntry tag (Entry.marked fun f => { f with overlength := true }) s)) := by
  unfold overlengthReached
  dsimp only
  rw [withEntry_some found, if_pos isOpen, markSuspect_open found isOpen]
  rfl

/-- Settles O31: marked, OVERLENGTH raised, and closed at the greatest length a sheet may have. -/
theorem overlengthClosesTheSheet : Obligations.OverlengthClosesTheSheet := by
  intro s w e _ due found isOpen
  let own : EntryFlags → EntryFlags := fun f => { f with overlength := true }
  let c := Ctx.at .tracker w.pos
  let p := e.leading + bu s.settings.maxSheetLength
  let m := modifyEntry e.tag (Entry.marked own) (dropWatch w s)
  have foundU : findEntry e.tag (dropWatch w s) = some e := (findEntry_dropWatch w e.tag s).trans found
  have foundM : findEntry e.tag m = some (e.marked own) := findEntry_modifyEntry_self (Entry.marked_tag own) foundU
  obtain ⟨r, foundR⟩ := (raise_sends c .overlength m).findEntry foundM
  obtain ⟨v, raised⟩ : ∃ v, v = raise c .overlength m := ⟨_, rfl⟩
  have settings : v.settings = s.settings := by
    rw [raised]; exact (raise_only c .overlength m).settings.resolve_left (Part.unnamed rfl)
  have run : exec (.overlength e.tag) s = .next (closeEntry c e.tag p v) := by
    rw [raised]
    exact congrArg Host.Outcome.next ((takeNamed_due due).trans (overlengthReached_open foundU isOpen))
  obtain ⟨y, route⟩ : ∃ y : Entry, y = { e with route := r } := ⟨_, rfl⟩
  have tag : y.tag = e.tag := by rw [route]
  have leading : y.leading = e.leading := by rw [route]
  have foundV : findEntry y.tag v = some (y.marked own) := by rw [tag, raised, route]; exact foundR
  obtain ⟨x, d, closes, decision, source, grade, suspect, aside⟩ := closeEntry_marked c own p foundV
  obtain ⟨state, trailing, -, held, -, -, flags⟩ := closes.fields
  have early : before p e.leading = false := not_before_add ..
  have marked : (y.marked own).tag = e.tag ∧ (y.marked own).leading = e.leading := ⟨tag, leading⟩
  obtain ⟨foundT, -, -, retirement, -⟩ := closes
  rw [closedAt_eq, marked.1, marked.2, early, settings] at retirement
  rw [marked.2, early] at trailing
  rw [marked.1] at foundT
  rw [tag] at foundT retirement aside
  refine ⟨_, x, run, foundT, state, suspect, by rw [flags]; rfl, trailing, held, ⟨d, decision, source, grade⟩, ?_,
    fun rest => ?_, retirement⟩
  · exact (closeEntry_calm c e.tag p v).flags .overlength (by rw [raised]; exact flagSet_raise ..)
  · have restM : linkAtRest m := dropWatch_rest (w := w) rest
    have keeps : keepsRest m v := raised ▸ raise_keepsRest restM
    have marks : othersStay e.tag s m :=
      modifyEntry_others (f := Entry.marked own) (Entry.marked_tag own) (dropWatch w s)
    have raises : othersStay e.tag m v := keeps.1.othersStay rfl e.tag
    have stays : othersStay (y.marked own).tag v (closeEntry c e.tag p v) := aside.entries keeps.2
    rw [marked.1] at stays
    exact othersStay.trans marks (othersStay.trans raises stays)

/-! ### An OPEN with conflicts -/

/-- An entry but for what the link and the evaluator change: route progress and the status of its evaluation. -/
def Entry.core (e : Entry) : Entry := { e with route := .pending, evalStatus := .none }

/-- The entry of a tag is the one it was, but for route progress and the status of its evaluation. -/
def spared (x : Tag) (s t : State) : Prop := (findEntry x t).map Entry.core = (findEntry x s).map Entry.core

theorem spared.refl (x : Tag) (s : State) : spared x s s := rfl

theorem spared.trans {x : Tag} {s t u : State} (h : spared x s t) (k : spared x t u) : spared x s u := Eq.trans k h

theorem spared_of_others {tag x : Tag} {s t : State} (h : othersStay tag s t) (n : x ≠ tag) : spared x s t :=
  congrArg (Option.map Entry.core) (h x n)

theorem Only.spared {W : List Part} {s t : State} (k : Only W s t) (entries : W.contains .entries = false) (x : Tag) :
    Machine.spared x s t := congrArg (Option.map Entry.core) (findEntry_only k (Part.unnamed entries) x)

theorem Sends.spared {s t : State} (h : Sends s t) (x : Tag) : Machine.spared x s t := by
  have same := congrArg (Option.map Entry.core) (h.unrouted x)
  rw [Option.map_map, Option.map_map] at same
  exact same

theorem withEntry_spared {tag x : Tag} {f : Entry → State → State} {s : State} (h : ∀ e, spared x s (f e s)) :
    spared x s (withEntry tag f s) := by
  unfold withEntry; split
  · exact h _
  · exact .refl x s

theorem spared_some {x : Tag} {s t : State} {e : Entry} (h : spared x s t) (found : findEntry x s = some e) :
    ∃ y, findEntry x t = some y ∧ y.core = e.core := by
  unfold spared at h
  rw [found] at h
  exact Option.map_eq_some_iff.mp h

/-- An update of entries that the core does not show. -/
theorem modifyEntry_spared (tag : Tag) {f : Entry → Entry} (h : ∀ e, (f e).core = e.core) (x : Tag) (s : State) :
    spared x s (modifyEntry tag f s) := by
  have hf : ∀ e, (f e).tag = e.tag := fun e =>
    (congrArg Entry.tag (h e) : (f e).core.tag = e.core.tag)
  unfold spared
  rw [findEntry_modifyEntry hf, Option.map_map]
  refine Option.map_congr fun e _ => ?_
  by_cases own : e.tag = tag <;> simp [own, h]

theorem startEvaluation_spared (x : Tag) (s : State) : spared x s (startEvaluation s) := by
  rcases startEvaluation_cases s with k | ⟨tag, rest, e, -, -, k⟩
  · rw [k]; exact .refl x s
  · rw [k]
    exact modifyEntry_spared tag (f := fun x => { x with evalStatus := .inEvaluation }) (fun _ => rfl) x
      (s.setEvaluator ⟨tag :: rest, some ⟨tag, e.bank⟩⟩)

theorem listEntry_spared (tag x : Tag) (s : State) : spared x s (listEntry tag s) := by
  let u := s.setEvaluator { s.evaluator with list := s.evaluator.list ++ [tag] }
  have listed : spared x u (setEvalStatus .listed tag u) :=
    modifyEntry_spared tag (f := fun x => { x with evalStatus := .listed }) (fun _ => rfl) x u
  exact spared.trans (s := s) listed (startEvaluation_spared x _)

theorem settleClosed_spared (c : Ctx) {tag x : Tag} (n : x ≠ tag) (s : State) : spared x s (settleClosed c tag s) := by
  refine withEntry_spared fun e => ?_
  split
  · exact spared_of_others (decideEntry_others c .suspect tag s) n
  · split
    · exact .refl x s
    · exact listEntry_spared tag x s

theorem endHold_spared (c : Ctx) {tag x : Tag} (n : x ≠ tag) (s : State) : spared x s (endHold c tag s) := by
  refine withEntry_spared fun e => ?_
  split
  · exact spared.trans (spared_of_others (modifyEntry_others (f := fun e => { e with holding := false })
      (fun _ => rfl) s) n) ((releaseHold_sends c e.bank _).spared x)
  · exact .refl x s

theorem closeEntry_spared (c : Ctx) {tag x : Tag} (n : x ≠ tag) (p : Position) (s : State) :
    spared x s (closeEntry c tag p s) := by
  cases found : findEntry tag s with
  | none =>
    have idle : closeEntry c tag p s = s := by unfold closeEntry withEntry; rw [found]
    rw [idle]; exact .refl x s
  | some e =>
    obtain rfl := (Stable.findEntry_mem found).2
    have emptied : spared x s (emptyHold c e.tag (trailingTaken c e p s)) :=
      spared_of_others (othersStay.trans (trailingTaken_others c e p s) (trailingTaken_empties found c p).entries) n
    rw [closeEntry_found found]
    exact emptied.trans ((settleClosed_spared c n _).trans (endHold_spared c n _))

theorem markSuspect_spared (c : Ctx) (own : EntryFlags → EntryFlags) {tag x : Tag} (n : x ≠ tag) (s : State) :
    spared x s (markSuspect c own tag s) := by
  have flagged : spared x s (flagSuspect own tag s) :=
    spared_of_others (modifyEntry_others (f := Entry.marked own) (Entry.marked_tag own) s) n
  refine withEntry_spared fun e => ?_
  dsimp only; split
  · exact flagged
  · split
    · exact flagged.trans ((spared_of_others (decideEntry_others c .suspect tag _) n).trans (endHold_spared c n _))
    · split
      · exact flagged.trans (spared_of_others (decideAs_others c _ tag e _) n)
      · exact flagged

theorem blindOpen_spared (c : Ctx) (p : Position) (x : Tag) (s : State) : spared x s (blindOpen c p s) := by
  cases present : s.tracker.blind with
  | none =>
    rw [blindOpen_creates c p present]
    exact ((setBlind_only s _).spared rfl x).trans (((arm_only ..).spared rfl x).trans
      (((raise_sends ..).spared x).trans ((intervalCreated_only ..).spared rfl x)))
  | some b =>
    have extended : spared x s (spanExtended c p b s) := ((setBlind_only s _).spared rfl x).trans
      (((disarm_only ..).spared rfl x).trans ((arm_only ..).spared rfl x))
    rw [blindOpen_extends c p present]
    split
    · exact extended.trans (((disarm_only ..).spared rfl x).trans
        (((raise_sends ..).spared x).trans ((intervalUnsealed_only _).spared rfl x)))
    · exact extended

theorem openEntry_spared (c : Ctx) (p : Position) (first last : Lane) {x : Tag} {s : State} {e : Entry}
    (found : findEntry x s = some e) : spared x s (openEntry c p first last s) := by
  obtain ⟨new, sheets, -⟩ := openEntry_opens c p first last s
  obtain ⟨r, foundC⟩ := (commitIfPending_sends c s).findEntry found
  have kept : findEntry x (openEntry c p first last s) = findEntry x (commitIfPending c s) := by
    unfold findEntry at foundC ⊢
    rw [sheets, List.find?_append, foundC]; rfl
  unfold spared
  rw [kept, foundC, found]; rfl

/-- An entry as a forced close at `p` for a cause leaves it (R36, R42). -/
def forceClosed (own : EntryFlags → EntryFlags) (p : Position) (e x : Entry) : Prop :=
  x.outline = ((e.marked own).closedAt p).outline ∧ ∃ d, x.decision = some d ∧ d.source = .suspect ∧ d.grade = 13

theorem outline_core (e : Entry) : e.core.outline = e.outline := rfl

/-- Route progress and the status of the evaluation do not matter for it, before the close and after. -/
theorem forceClosed_congr {own : EntryFlags → EntryFlags} {p : Position} {e f x y : Entry} (before : e.core = f.core)
    (after : x.core = y.core) (h : forceClosed own p e x) : forceClosed own p f y := by
  have edge : ∀ z : Entry, ((z.marked own).closedAt p).outline = ((z.core.marked own).closedAt p).outline := fun z => by
    rw [closedAt_eq, closedAt_eq]; rfl
  obtain ⟨outline, decision⟩ := h
  refine ⟨?_, ?_⟩
  · rw [← outline_core y, ← after, outline_core, edge f, ← before, ← edge e]; exact outline
  · have same : x.decision = y.decision := (congrArg Entry.decision after : x.core.decision = y.core.decision)
    rw [← same]; exact decision

/-- One forced close, of its own entry. -/
theorem forceClose_closes (c : Ctx) (own : EntryFlags → EntryFlags) (p : Position) {s : State} {e : Entry}
    (found : findEntry e.tag s = some e) (isOpen : e.isOpen = true) :
    ∃ x, findEntry e.tag (closeEntry c e.tag p (markSuspect c own e.tag s)) = some x ∧ forceClosed own p e x := by
  have foundM : findEntry e.tag (markSuspect c own e.tag s) = some (e.marked own) := by
    rw [markSuspect_open found isOpen]
    exact findEntry_modifyEntry_self (Entry.marked_tag own) found
  obtain ⟨x, d, closes, decision, source, grade, -, -⟩ := closeEntry_marked c own p foundM
  refine ⟨x, closes.found, ?_, d, decision, source, grade⟩
  rw [closes.same, closedOut_eq]
  rfl

/-- Forced closes leave the other entries as they are. -/
theorem forceCloseAll_spared (c : Ctx) (own : EntryFlags → EntryFlags) (p : Position) {x : Tag} :
    ∀ (tags : List Tag) (s : State), x ∉ tags → spared x s (forceCloseAll c own tags p s)
  | [], s, _ => .refl x s
  | tag :: tags, s, off => by
    obtain ⟨n, off⟩ := not_or.mp (mt List.mem_cons.mpr off)
    exact (markSuspect_spared c own n s).trans ((closeEntry_spared c n p _).trans
      (forceCloseAll_spared c own p tags _ off))

/-- Every entry named is force-closed (R36, R44). -/
theorem forceCloseAll_closes (c : Ctx) (own : EntryFlags → EntryFlags) (p : Position) :
    ∀ (tags : List Tag) (s : State), tags.Nodup → ∀ e, findEntry e.tag s = some e → e.isOpen = true → e.tag ∈ tags →
      ∃ x, findEntry e.tag (forceCloseAll c own tags p s) = some x ∧ forceClosed own p e x
  | [], _, _, _, _, _, m => by cases m
  | tag :: tags, s, nodup, e, found, isOpen, m => by
    obtain ⟨fresh, nodup⟩ := List.nodup_cons.mp nodup
    by_cases own_ : e.tag = tag
    · subst own_
      obtain ⟨x, foundX, closed⟩ := forceClose_closes c own p found isOpen
      obtain ⟨y, foundY, same⟩ := spared_some (forceCloseAll_spared c own p tags _ fresh) foundX
      exact ⟨y, foundY, forceClosed_congr rfl same.symm closed⟩
    · have later : e.tag ∈ tags := (List.mem_cons.mp m).resolve_left own_
      have first : spared e.tag s (closeEntry c tag p (markSuspect c own tag s)) :=
        (markSuspect_spared c own own_ s).trans (closeEntry_spared c own_ p _)
      obtain ⟨y, foundY, same⟩ := spared_some first found
      have tagY : y.tag = e.tag := (Stable.findEntry_mem foundY).2
      have openY : y.isOpen = true := (congrArg Entry.isOpen same : y.core.isOpen = e.core.isOpen).trans isOpen
      rw [← tagY] at foundY later ⊢
      obtain ⟨x, foundX, closed⟩ := forceCloseAll_closes c own p tags _ nodup y foundY openY later
      exact ⟨x, foundX, forceClosed_congr same rfl closed⟩

theorem spanConflict_some {first last : Lane} {s : State}
    (conflict : ∃ e ∈ s.tracker.sheets, e.isOpen = true ∧ e.sharesLane first last = true) (c : Ctx) (p : Position) :
    spanConflict c p first last s = raise c .spanConflict (forceCloseAll c (fun f => { f with spanConflict := true })
      (tagsWhere (fun e => e.isOpen && e.sharesLane first last) s) p s) := by
  obtain ⟨e, m, isOpen, shares⟩ := conflict
  have named : e.tag ∈ tagsWhere (fun e => e.isOpen && e.sharesLane first last) s :=
    mem_tagsWhere.mpr ⟨e, m, by simp [isOpen, shares], rfl⟩
  unfold spanConflict
  split
  · next none_ => rw [none_] at named; cases named
  · rfl

/-- SPAN_CONFLICT is raised, and every OPEN entry that shares a lane is force-closed (R36, R42). -/
theorem spanConflict_closes (c : Ctx) (p : Position) {first last : Lane} {s : State} (d : tagsDistinct s)
    (conflict : ∃ e ∈ s.tracker.sheets, e.isOpen = true ∧ e.sharesLane first last = true) :
    flagSet (spanConflict c p first last s) .spanConflict = true ∧
      ∀ e ∈ s.tracker.sheets, e.isOpen = true → e.sharesLane first last = true →
        ∃ x, findEntry e.tag (spanConflict c p first last s) = some x ∧
          forceClosed (fun f => { f with spanConflict := true }) p e x := by
  rw [spanConflict_some conflict]
  refine ⟨flagSet_raise .., fun e m isOpen shares => ?_⟩
  have named : e.tag ∈ tagsWhere (fun e => e.isOpen && e.sharesLane first last) s :=
    mem_tagsWhere.mpr ⟨e, m, by simp [isOpen, shares], rfl⟩
  obtain ⟨x, foundX, closedX⟩ := forceCloseAll_closes c (fun f => { f with spanConflict := true }) p _ s
    (tagsWhere_nodup _ d) e (findEntry_self d m) isOpen named
  obtain ⟨y, foundY, same⟩ := spared_some ((raise_sends c .spanConflict _).spared e.tag) foundX
  exact ⟨y, foundY, forceClosed_congr rfl same.symm closedX⟩

/-- Where an entry force-closed stands, field by field (R36, R42). -/
theorem forceClosed_fields {own : EntryFlags → EntryFlags} {p : Position} {e x : Entry} (h : forceClosed own p e x) :
    x.state = .closed ∧ x.flags.suspect = true ∧ x.flags.causes = (e.marked own).flags.causes ∧
      x.trailing = some (if before p e.leading then e.leading else p) := by
  have outline := h.1
  rw [closedAt_eq] at outline
  have causes : x.flags.causes = _ := congrArg Outline.causes outline
  have suspect : x.flags.suspect = true := congrArg EntryFlags.suspect causes
  exact ⟨congrArg Outline.state outline, suspect, causes, congrArg Outline.trailing outline⟩

/-- Settles O20: the conflicts are closed, then the OPEN is one without a conflict. -/
theorem openClosesConflicts : Obligations.OpenClosesConflicts := by
  intro s first last offset taken ok d conflict
  let a := armSilence s
  let c := Ctx.now a
  obtain ⟨p, leading⟩ : ∃ p, p = placed s s.position.belt offset := ⟨_, rfl⟩
  obtain ⟨u, cleared⟩ : ∃ u, u = spanConflict c p first last a := ⟨_, rfl⟩
  obtain ⟨t, opened⟩ : ∃ t, t = if u.agent.mode = .streaming ∧ u.tracker.sheets.length < Config.sheetQueueMax then
      openEntry c p first last u else blindOpen c p u := ⟨_, rfl⟩
  have run : exec (.openSheet s.scan.deckValue first last offset) s = .next t := by
    rw [exec_accepted taken (traffic_open ok offset), opened, cleared, leading]
    exact congrArg Host.Outcome.next (takeOpen_eq first last offset _ a)
  have leaves : Only (.scan :: decideParts) s u := by
    rw [cleared]
    exact .via (spanConflict_only ..) rfl (.via (armSilence_only s) rfl (.refl ..))
  have mode : u.agent.mode = s.agent.mode := leaves.mode.resolve_left (Part.unnamed rfl)
  have tags : tagsOf u = tagsOf s := leaves.tags.resolve_left (Part.unnamed rfl)
  have blind : u.tracker.blind = s.tracker.blind := leaves.blind.resolve_left (Part.unnamed rfl)
  have settings : u.settings = s.settings := leaves.settings.resolve_left (Part.unnamed rfl)
  have length : u.tracker.sheets.length = s.tracker.sheets.length := by
    simpa [tagsOf] using congrArg List.length tags
  obtain ⟨raised, closed⟩ := spanConflict_closes c p (s := a) d conflict
  rw [← cleared] at raised closed
  rw [← leading]
  refine ⟨t, run, ?_, fun e m isOpen shares => ?_, fun streaming room => ?_, fun full => ?_⟩
  · rw [opened]; split
    · exact (openEntry_calm ..).flags _ raised
    · exact (blindOpen_background ..).flags _ raised
  · obtain ⟨x, foundX, closedX⟩ := closed e m isOpen shares
    have kept : spared e.tag u t := by
      rw [opened]; split
      · exact openEntry_spared c p first last foundX
      · exact blindOpen_spared ..
    obtain ⟨y, foundY, same⟩ := spared_some kept foundX
    have closedY := forceClosed_congr rfl same.symm closedX
    obtain ⟨state, suspect, causes, trailing⟩ := forceClosed_fields closedY
    obtain ⟨member, tag⟩ := Stable.findEntry_mem foundY
    exact ⟨y, member, tag, state, suspect, congrArg EntryFlags.spanConflict causes, trailing, closedY.2⟩
  · rw [if_pos ⟨mode.trans streaming, length.symm ▸ room⟩] at opened
    obtain ⟨e, sheets, tag, next, new, committed⟩ := openEntry_opens c p first last u
    obtain ⟨fresh, -⟩ := nextTag_fresh (s := u) (length.symm ▸ room)
    have opens := openEntry_leaves c p first last u
    have last_ := openEntry_tags c p first last u
    rw [← opened] at sheets next new committed opens last_
    refine ⟨e, ?_, by rw [sheets]; simp, by rw [tag, ← tags]; exact fresh, next, ?_, ?_, new, ?_⟩
    · rw [last_, tags, tag]
    · exact (opens.blind.resolve_left (Part.unnamed rfl)).trans blind
    · exact (opens.settings.resolve_left (Part.unnamed rfl)).trans settings
    · exact commitTaken_before leaves rfl rfl committed
  · have shut : ¬ (u.agent.mode = .streaming ∧ u.tracker.sheets.length < Config.sheetQueueMax) := by
      rw [mode, length]
      rintro ⟨streaming, room⟩
      rcases full with draining | full
      · rw [draining] at streaming; cases streaming
      · omega
    rw [if_neg shut] at opened
    have spans := blindOpen_spans c p u
    have rest := blindOpen_only c p u
    rw [← opened, settings, blind] at spans
    rw [← opened] at rest
    have all : Only (.scan :: blindParts) s t := .via rest rfl (leaves.mono rfl)
    exact ⟨all.tags.resolve_left (Part.unnamed rfl), all.tagCounter.resolve_left (Part.unnamed rfl),
      (all.active.resolve_left (Part.unnamed rfl)).1, all.commitPending.resolve_left (Part.unnamed rfl), spans⟩

end Sys2Proof.Machine
end

section
/-! The retirement of a sheet (R50, R105, R113, R119, R141 to R143, R155, R168, R180): its records on the Route Link, the
positions left, and what each block does at the end of an entry. -/
namespace Sys2Proof.Machine
open Sys2Proof.Safety

/-! ### Records that join the queue, and positions that only go -/

/-- No position is armed, no record that is not a ROUTE record is lost, and with the link at rest only records that are
no ROUTE records join the Output Queue or begin sending (R133, R134). -/
structure Offers (s t : State) : Prop where
  fewer : t.watches.Sublist s.watches
  keeps : ∀ r : OutRecord, r.isRoute = false → onLink r s → onLink r t
  rest : linkAtRest s → linkAtRest t
  queue : linkAtRest s → ∃ added, t.link.queue = s.link.queue ++ added ∧ ∀ r ∈ added, r.isRoute = false
  sending : linkAtRest s → ∀ r : OutRecord, r.isRoute = true → t.link.sending = some r → s.link.sending = some r

theorem Offers.trans {s t u : State} (h : Offers s t) (k : Offers t u) : Offers s u := by
  refine ⟨k.fewer.trans h.fewer, fun r n on => k.keeps r n (h.keeps r n on), fun i => k.rest (h.rest i), fun i => ?_,
    fun i r n on => h.sending i r n (k.sending (h.rest i) r n on)⟩
  obtain ⟨a, queueA, noneA⟩ := h.queue i
  obtain ⟨b, queueB, noneB⟩ := k.queue (h.rest i)
  exact ⟨a ++ b, by rw [queueB, queueA, List.append_assoc],
    fun r m => (List.mem_append.mp m).elim (noneA r) (noneB r)⟩

/-- What leaves the link and arms nothing. -/
theorem Only.offers {W : List Part} {s t : State} (k : Only W s t) (link : W.contains .link = false)
    (pins : W.contains .pins = false) (fewer : t.watches.Sublist s.watches) : Offers s t := by
  have same := k.link.resolve_left (Part.unnamed link)
  refine ⟨fewer, fun r _ on => ?_, linkAtRest_only k (Part.unnamed link) (Part.unnamed pins), fun _ => ?_,
    fun _ r _ on => ?_⟩
  · unfold onLink; rwa [same]
  · exact ⟨[], by rw [same, List.append_nil], fun _ m => by cases m⟩
  · rwa [same] at on

theorem Only.offersQuiet {W : List Part} {s t : State} (k : Only W s t) (link : W.contains .link = false)
    (pins : W.contains .pins = false) (watches : W.contains .watches = false) : Offers s t :=
  k.offers link pins (k.watches.resolve_left (Part.unnamed watches) ▸ .refl _)

theorem Offers.refl (s : State) : Offers s s := (Only.refl [] s).offersQuiet rfl rfl rfl

/-- A record placed waits at the tail, or the head begins sending (R133, R134). -/
theorem place_link (r : OutRecord) (s : State) :
    (place r s).link = ⟨s.link.queue ++ [r], s.link.sending⟩ ∨
      ∃ x rest, s.pins.ready = true ∧ s.link.sending = none ∧ s.link.queue ++ [r] = x :: rest ∧
        (place r s).link = ⟨rest, some x⟩ := by
  have queued : (enqueue r s).link = ⟨s.link.queue ++ [r], s.link.sending⟩ := rfl
  unfold place
  rcases tryBegin_cases (enqueue r s) with ⟨k, -⟩ | ⟨x, rest, l, ready, k⟩
  · exact .inl (by rw [k, queued])
  · rw [queued] at l
    obtain ⟨queue, sending⟩ := (Link.mk.injEq ..).mp l
    refine .inr ⟨x, rest, ready, sending, queue, ?_⟩
    rw [k, (routeSent_only ..).link.resolve_left (Part.unnamed rfl)]; rfl

theorem place_offers {r : OutRecord} (n : r.isRoute = false) (s : State) : Offers s (place r s) := by
  have fewer : (place r s).watches.Sublist s.watches := (tryBegin_sends (enqueue r s)).fewer
  rcases place_link r s with link | ⟨x, rest, ready, sending, queue, link⟩
  · refine ⟨fewer, fun y _ on => ?_, fun _ => linkAtRest_tryBegin _, fun _ => ⟨[r], by rw [link], ?_⟩,
      fun _ y _ on => ?_⟩
    · unfold onLink; rw [link]
      exact on.imp (List.mem_append_left _) id
    · intro y m; rw [List.mem_singleton.mp m]; exact n
    · rwa [link] at on
  · refine ⟨fewer, fun y _ on => ?_, fun _ => linkAtRest_tryBegin _, fun i => ⟨[], ?_, fun _ m => by cases m⟩,
      fun i y m on => ?_⟩
    · unfold onLink; rw [link]
      rcases on with waiting | sent
      · have member : y ∈ x :: rest := queue ▸ List.mem_append_left _ waiting
        exact (List.mem_cons.mp member).elim (fun same => .inr (congrArg some same.symm)) .inl
      · rw [sending] at sent; cases sent
    all_goals
      have empty : s.link.queue = [] := i ready sending
      rw [empty] at queue
      obtain ⟨rfl, rfl⟩ := List.cons.inj queue
    · rw [link, empty]; rfl
    · rw [link] at on
      cases on
      rw [n] at m; cases m

theorem offer_offers {r : OutRecord} (n : r.isRoute = false) (s : State) : Offers s (offer r s) := by
  unfold offer; split
  · exact place_offers n s
  · exact (setFlag_only ..).offersQuiet rfl rfl rfl

/-- A record for which there is room joins the link (R133). -/
theorem offer_onLink {r : OutRecord} {s : State} (room : roomForOffered s = true) : onLink r (offer r s) := by
  unfold offer onLink; rw [if_pos room]
  have tail : r ∈ s.link.queue ++ [r] := List.mem_append_right _ (.head _)
  rcases place_link r s with link | ⟨x, rest, -, -, queue, link⟩
  · rw [link]; exact .inl tail
  · rw [link]
    rw [queue] at tail
    exact (List.mem_cons.mp tail).elim (fun same => .inr (congrArg some same.symm)) .inl

theorem raise_offers (c : Ctx) (f : Flag) (s : State) : Offers s (raise c f s) := by
  have flagged : Offers s (setFlag f s) := (setFlag_only ..).offersQuiet rfl rfl rfl
  unfold raise; split
  · exact .refl s
  · dsimp only; split
    · exact flagged.trans (offer_offers rfl _)
    · exact flagged

theorem releaseHold_offers (c : Ctx) (id : BankId) (s : State) : Offers s (releaseHold c id s) := by
  have counted : Offers s (s.setTables (s.tables.setHolders id (s.tables.holders id - 1))) :=
    (setHolders_only ..).offersQuiet rfl rfl rfl
  unfold releaseHold; dsimp only; split
  · exact counted
  · refine counted.trans ?_
    rcases releaseBank_cases c (s.setTables (s.tables.setHolders id (s.tables.holders id - 1))) with
      ⟨-, -, k⟩ | ⟨-, k⟩ <;> rw [k]
    · refine Offers.trans (Only.offersQuiet (W := [.holds]) ?_ rfl rfl rfl) (raise_offers ..)
      constructor <;> simp [holdingsOf]
    · exact .refl _

theorem commitIfPending_offers (c : Ctx) (s : State) : Offers s (commitIfPending c s) := by
  unfold commitIfPending; split
  · refine Offers.trans (t := s.setTables _) (Only.offersQuiet (W := [.holds, .active, .commitPending]) ?_ rfl rfl rfl)
      (raise_offers ..)
    constructor <;> simp [holdingsOf]
  · exact .refl s

theorem commitIfQueueEmpty_offers (c : Ctx) (s : State) : Offers s (commitIfQueueEmpty c s) := by
  unfold commitIfQueueEmpty; split
  · exact commitIfPending_offers ..
  · exact .refl s

theorem giveNotice_offers (n : Bool) (c : Ctx) (s : State) : Offers s (giveNotice n c s) := by
  unfold giveNotice drainEnd; split
  · split
    · exact Offers.trans ((enterStandby_only s).offers rfl rfl List.filter_sublist) (raise_offers ..)
    · exact .refl s
  · exact .refl s

/-! ### REPORT and grade -/

/-- The REPORT of an entry holds what Table 8-2 asks (R76, R84, R143). -/
theorem report_is (e : Entry) (d : Decision) : reportIs e d (e.report d) := by
  refine ⟨rfl, rfl, rfl, rfl, rfl, fun trailing k => ?_, rfl, rfl, rfl, rfl, rfl, fun none_ => if_pos none_,
    fun some_ => if_neg (by omega), rfl, rfl, ?_⟩
  · simp [Entry.report, Entry.length, k]
  · have all : allClasses = List.finRange 12 := by decide
    unfold Entry.report
    dsimp only
    rw [all, List.filter_map]
    refine congrArg _ (List.filter_congr fun k _ => ?_)
    simp [Nat.pos_iff_ne_zero]

theorem reportAndCount_eq {e : Entry} {d : Decision} (decided : e.decision = some d) (s : State) :
    reportAndCount e s = countGrade d.grade (if s.settings.reportEnable then offer (.report (e.report d)) s else s) := by
  unfold reportAndCount; rw [decided]

/-- Its final grade alone is counted (R180). -/
theorem reportAndCount_grades {e : Entry} {d : Decision} (decided : e.decision = some d) (s : State) (g : Fin 16) :
    (reportAndCount e s).attention.grades.get g =
      if g = d.grade then s.attention.grades.get g + 1 else s.attention.grades.get g := by
  rw [reportAndCount_eq decided]
  obtain ⟨u, reported⟩ : ∃ u, u = if s.settings.reportEnable then offer (.report (e.report d)) s else s := ⟨_, rfl⟩
  have same : u.attention.grades = s.attention.grades := by
    rw [reported]; split
    · exact (offer_only ..).grades.resolve_left (Part.unnamed rfl)
    · rfl
  rw [← reported, ← same]
  by_cases own : g = d.grade
  · subst own; simp [countGrade, Vector.get_eq_getElem]
  · have other : d.grade.val ≠ g.val := fun h => own (Fin.ext h).symm
    simp [countGrade, Vector.get_eq_getElem, own, Vector.getElem_set_ne _ _ other]

theorem reportAndCount_offers (e : Entry) (s : State) : Offers s (reportAndCount e s) := by
  unfold reportAndCount; split
  · refine Offers.trans ?_ ((countGrade_only ..).offersQuiet rfl rfl rfl)
    split
    · exact offer_offers rfl s
    · exact .refl s
  · exact .refl s

theorem reportAndCount_onLink {e : Entry} {d : Decision} (decided : e.decision = some d) {s : State}
    (enabled : s.settings.reportEnable = true) (room : roomForOffered s = true) :
    onLink (.report (e.report d)) (reportAndCount e s) := by
  rw [reportAndCount_eq decided, if_pos enabled]
  exact ((countGrade_only d.grade (offer (.report (e.report d)) s)).offersQuiet rfl rfl rfl).keeps _ rfl
    (offer_onLink room)

theorem flagSet_reportAndCount (e : Entry) {f : Flag} (o : f ≠ .outDropped) (s : State) :
    flagSet (reportAndCount e s) f = flagSet s f := by
  unfold reportAndCount; split
  · refine ((countGrade_only ..).flagSet (Part.unnamed rfl) f).trans ?_
    split
    · exact flagSet_offer_other _ o s
    · rfl
  · rfl

theorem reportAndCount_sends (e : Entry) (s : State) : Sends s (reportAndCount e s) := by
  unfold reportAndCount; split
  · refine Sends.trans ?_ ((countGrade_only ..).sends rfl rfl)
    split
    · exact offer_sends ..
    · exact .refl s
  · exact .refl s

/-! ### The removal -/

/-- No position of an entry removed stays (R50). -/
theorem removeEntry_watches (tag : Tag) (s : State) : ∀ w ∈ (removeEntry tag s).watches, w.kind.tag ≠ some tag := by
  intro w m
  simpa [removeEntry, disarmTag] using (List.mem_filter.mp m).2

theorem removeEntry_offers (tag : Tag) (s : State) : Offers s (removeEntry tag s) :=
  (removeEntry_only tag s).offers rfl rfl List.filter_sublist

theorem removeEntry_findEntry {tag x : Tag} (n : x ≠ tag) (s : State) :
    findEntry x (removeEntry tag s) = findEntry x s := by
  have sheets : (removeEntry tag s).tracker.sheets = s.tracker.sheets.filter fun e => e.tag ≠ tag := rfl
  unfold findEntry
  rw [sheets, List.find?_filter]
  congr 1
  funext e
  by_cases own : e.tag = x
  · simp [own, n]
  · simp [own]

theorem removeEntry_evaluator (tag : Tag) (s : State) : (removeEntry tag s).evaluator =
    { s.evaluator with list := s.evaluator.list.filter fun x => x ≠ tag } := rfl

/-! ### Route, stamp and hold -/

/-- Whether the route of an entry is lost when it is retired (R141). -/
def routeLost (e : Entry) : Prop := e.route = .placed ∨ (e.route = .pending ∧ e.flags.diverted = false)

theorem routeRetired_placed (c : Ctx) {e : Entry} (placed : e.route = .placed) (s : State) :
    routeRetired c e s = raise c .diverted (withdraw e.tag s) := if_pos placed

theorem routeRetired_cases (c : Ctx) (e : Entry) (s : State) :
    (routeLost e ∧ ∃ u, Only [.link] s u ∧ (∀ r : OutRecord, r.isRoute = false → onLink r s → onLink r u) ∧
      routeRetired c e s = raise c .diverted u) ∨ (¬ routeLost e ∧ routeRetired c e s = s) := by
  by_cases placed : e.route = .placed
  · refine .inl ⟨.inl placed, withdraw e.tag s, withdraw_only .., fun r n on => ?_, routeRetired_placed c placed s⟩
    refine on.imp (fun m => List.mem_filter.mpr ⟨m, ?_⟩) id
    cases r with
    | route => cases n
    | _ => rfl
  · by_cases pending : e.route = .pending ∧ e.flags.diverted = false
    · refine .inl ⟨.inr pending, s, .refl .., fun _ _ on => on, ?_⟩
      unfold routeRetired
      rw [if_neg placed, if_pos (by simpa using pending)]
    · refine .inr ⟨not_or.mpr ⟨placed, pending⟩, ?_⟩
      unfold routeRetired
      rw [if_neg placed, if_neg (by simpa using pending)]

theorem routeRetired_keeps (c : Ctx) (e : Entry) (s : State) :
    (routeRetired c e s).watches.Sublist s.watches ∧
      ∀ r : OutRecord, r.isRoute = false → onLink r s → onLink r (routeRetired c e s) := by
  rcases routeRetired_cases c e s with ⟨-, u, only, keeps, run⟩ | ⟨-, run⟩
  · have raised := raise_offers c .diverted u
    rw [run]
    exact ⟨only.watches.resolve_left (Part.unnamed rfl) ▸ raised.fewer, fun r n on => raised.keeps r n (keeps r n on)⟩
  · rw [run]; exact ⟨.refl _, fun _ _ on => on⟩

theorem markerRetired_offers (tag : Tag) (s : State) : Offers s (markerRetired tag s) := by
  unfold markerRetired; split
  · split
    · exact (endStamp_only s).offers rfl rfl (List.filter_sublist.trans List.filter_sublist)
    · exact .refl s
  · exact .refl s

/-- The hold of a retired entry ends (R49, R113). -/
def holdRetired (c : Ctx) (e : Entry) (s : State) : State := if e.holding then releaseHold c e.bank s else s

theorem holdRetired_only (c : Ctx) (e : Entry) (s : State) : Only (.holds :: raiseParts) s (holdRetired c e s) := by
  unfold holdRetired; split
  · exact releaseHold_only ..
  · exact .refl ..

theorem holdRetired_offers (c : Ctx) (e : Entry) (s : State) : Offers s (holdRetired c e s) := by
  unfold holdRetired; split
  · exact releaseHold_offers ..
  · exact .refl s

theorem holdRetired_sends (c : Ctx) (e : Entry) (s : State) : Sends s (holdRetired c e s) := by
  unfold holdRetired; split
  · exact releaseHold_sends ..
  · exact .refl s

theorem flagSet_holdRetired (c : Ctx) (e : Entry) {f : Flag} (n : f ≠ .bankReleased) (o : f ≠ .outDropped) (s : State) :
    flagSet (holdRetired c e s) f = flagSet s f := by
  unfold holdRetired; split
  · exact flagSet_releaseHold_other c e.bank n o s
  · rfl

/-! ### The evaluation -/

theorem abandonEvaluation_other {tag : Tag} {s : State} (n : ∀ f, s.evaluator.inFlight = some f → f.tag ≠ tag) :
    abandonEvaluation tag s = s := by
  unfold abandonEvaluation
  cases flight : s.evaluator.inFlight with
  | none => rfl
  | some f => exact if_neg (n f flight)

theorem abandonEvaluation_own {tag : Tag} {s : State} {f : InFlight} (flight : s.evaluator.inFlight = some f)
    (own : f.tag = tag) : abandonEvaluation tag s = startEvaluation (evaluatorIdle s) := by
  unfold abandonEvaluation; rw [flight]; exact if_pos own

theorem abandonEvaluation_list (tag : Tag) (s : State) :
    (abandonEvaluation tag s).evaluator.list = s.evaluator.list := by
  unfold abandonEvaluation; split
  · split
    · exact startEvaluation_list _
    · rfl
  · rfl

/-! ### An entry that leaves -/

/-- A retirement up to the evaluation: counted, removed, route, stamp and hold ended. -/
def leaving (c : Ctx) (e : Entry) (s : State) : State :=
  holdRetired c e (markerRetired e.tag (routeRetired c e (removeEntry e.tag (reportAndCount e s))))

/-- The rest of it: the evaluation, the pending commit and the notice. -/
def ending (n : Bool) (c : Ctx) (tag : Tag) (s : State) : State :=
  giveNotice n c (commitIfQueueEmpty c (abandonEvaluation tag s))

theorem retireEntry_eq (n : Bool) (c : Ctx) (e : Entry) (s : State) :
    retireEntry n c e s = ending n c e.tag (leaving c e s) := rfl

theorem leaving_afterRemoval (c : Ctx) (e : Entry) (s : State) :
    Only (.holds :: .marker :: raiseParts) (removeEntry e.tag (reportAndCount e s)) (leaving c e s) :=
  .via (holdRetired_only ..) rfl (.via (markerRetired_only ..) rfl (.via (routeRetired_only ..) rfl (.refl ..)))

theorem leaving_only (c : Ctx) (e : Entry) (s : State) :
    Only (.tags :: .evaluator :: .holdings :: .holds :: .marker :: .grades :: raiseParts) s (leaving c e s) :=
  .via (leaving_afterRemoval ..) rfl (.via (removeEntry_only ..) rfl (.via (reportAndCount_only ..) rfl (.refl ..)))

theorem leaving_tags (c : Ctx) (e : Entry) (s : State) :
    tagsOf (leaving c e s) = (tagsOf s).filter (fun x => x ≠ e.tag) := by
  rw [(leaving_afterRemoval c e s).tagsKept rfl, removeEntry_tags, (reportAndCount_only e s).tagsKept rfl]

theorem leaving_evaluator (c : Ctx) (e : Entry) (s : State) : (leaving c e s).evaluator =
    { s.evaluator with list := s.evaluator.list.filter fun x => x ≠ e.tag } := by
  rw [(leaving_afterRemoval c e s).evaluator.resolve_left (Part.unnamed rfl), removeEntry_evaluator,
    (reportAndCount_only e s).evaluator.resolve_left (Part.unnamed rfl)]

theorem leaving_marker (c : Ctx) (e : Entry) (s : State) :
    (leaving c e s).marker = s.marker.filter fun p => p.tag ≠ e.tag := by
  unfold leaving
  rw [(holdRetired_only ..).marker.resolve_left (Part.unnamed rfl), markerRetired_marker,
    (routeRetired_only ..).marker.resolve_left (Part.unnamed rfl),
    (removeEntry_only ..).marker.resolve_left (Part.unnamed rfl),
    (reportAndCount_only ..).marker.resolve_left (Part.unnamed rfl)]

theorem leaving_grades {e : Entry} {d : Decision} (decided : e.decision = some d) (c : Ctx) (s : State) (g : Fin 16) :
    (leaving c e s).attention.grades.get g =
      if g = d.grade then s.attention.grades.get g + 1 else s.attention.grades.get g := by
  rw [(leaving_afterRemoval c e s).grades.resolve_left (Part.unnamed rfl),
    (removeEntry_only ..).grades.resolve_left (Part.unnamed rfl), reportAndCount_grades decided]

/-- Stamp and hold of the entry end on the link as elsewhere. -/
theorem leaving_offers (c : Ctx) (e : Entry) (s : State) : Offers s (holdRetired c e (markerRetired e.tag s)) :=
  (markerRetired_offers e.tag s).trans (holdRetired_offers c e _)

theorem leaving_watches (c : Ctx) (e : Entry) (s : State) : ∀ w ∈ (leaving c e s).watches, w.kind.tag ≠ some e.tag :=
  fun w m => removeEntry_watches e.tag (reportAndCount e s) w
    ((routeRetired_keeps c e _).1.subset ((leaving_offers c e _).fewer.subset m))

theorem leaving_report {e : Entry} {d : Decision} (decided : e.decision = some d) (c : Ctx) {s : State}
    (enabled : s.settings.reportEnable = true) (room : roomForOffered s = true) :
    onLink (.report (e.report d)) (leaving c e s) :=
  (leaving_offers c e _).keeps _ rfl ((routeRetired_keeps c e _).2 _ rfl
    ((removeEntry_offers e.tag _).keeps _ rfl (reportAndCount_onLink decided enabled room)))

/-- DIVERTED is raised for a lost route, and no other flag but for a bank released and a record dropped (R114, R133,
R141). -/
theorem flagSet_leaving (c : Ctx) (e : Entry) (s : State) {f : Flag} (n : f ≠ .bankReleased) (o : f ≠ .outDropped) :
    (f ≠ .diverted → flagSet (leaving c e s) f = flagSet s f) ∧
      (routeLost e → flagSet (leaving c e s) .diverted = true) ∧
      (¬ routeLost e → flagSet (leaving c e s) f = flagSet s f) := by
  have after : ∀ {g u}, g ≠ .bankReleased → g ≠ .outDropped →
      flagSet (holdRetired c e (markerRetired e.tag u)) g = flagSet u g := fun n o =>
    (flagSet_holdRetired c e n o _).trans ((markerRetired_only ..).flagSet (Part.unnamed rfl) _)
  have before : flagSet (removeEntry e.tag (reportAndCount e s)) f = flagSet s f :=
    ((removeEntry_only ..).flagSet (Part.unnamed rfl) f).trans (flagSet_reportAndCount e o s)
  unfold leaving
  rcases routeRetired_cases c e (removeEntry e.tag (reportAndCount e s)) with ⟨lost, u, only, -, run⟩ | ⟨kept, run⟩
  · rw [run]
    refine ⟨fun d => ?_, fun _ => ?_, fun k => absurd lost k⟩
    · exact (after n o).trans ((flagSet_raise_other _ _ _ _ d o).trans
        ((only.flagSet (Part.unnamed rfl) f).trans before))
    · exact (after (by decide) (by decide)).trans (flagSet_raise ..)
  · rw [run]
    exact ⟨fun _ => (after n o).trans before, fun k => absurd k kept, fun _ => (after n o).trans before⟩

/-- The other entries stay, but for a route that begins sending (R134). -/
theorem leaving_findEntry (c : Ctx) (e : Entry) {x : Tag} (n : x ≠ e.tag) (s : State) :
    (findEntry x (leaving c e s)).map Entry.unrouted = (findEntry x s).map Entry.unrouted := by
  have routed : (findEntry x (routeRetired c e (removeEntry e.tag (reportAndCount e s)))).map Entry.unrouted =
      (findEntry x (removeEntry e.tag (reportAndCount e s))).map Entry.unrouted := by
    rcases routeRetired_cases c e (removeEntry e.tag (reportAndCount e s)) with ⟨-, u, only, -, run⟩ | ⟨-, run⟩
    · rw [run, (raise_sends c .diverted u).unrouted, findEntry_only only (Part.unnamed rfl)]
    · rw [run]
  unfold leaving
  rw [(holdRetired_sends c e _).unrouted, findEntry_only (markerRetired_only ..) (Part.unnamed rfl), routed,
    removeEntry_findEntry n, (reportAndCount_sends e s).unrouted]

/-- Its ROUTE record is withdrawn, and what joins the link is none (R141). -/
theorem leaving_link {c : Ctx} {e : Entry} {s : State} (rest : linkAtRest s) (placed : e.route = .placed) :
    linkAtRest (leaving c e s) ∧
      (∃ added, (leaving c e s).link.queue = (s.link.queue.filter fun r => !r.isRouteOf e.tag) ++ added ∧
        ∀ r ∈ added, r.isRoute = false) ∧
      ∀ r : OutRecord, r.isRoute = true → (leaving c e s).link.sending = some r → s.link.sending = some r := by
  obtain ⟨u, removed⟩ : ∃ u, u = removeEntry e.tag (reportAndCount e s) := ⟨_, rfl⟩
  have first : Offers s u := removed ▸ (reportAndCount_offers e s).trans (removeEntry_offers e.tag _)
  have last : Offers (withdraw e.tag u) (leaving c e s) := by
    unfold leaving
    rw [← removed, routeRetired_placed c placed]
    exact (raise_offers c .diverted _).trans (leaving_offers c e _)
  have restW : linkAtRest (withdraw e.tag u) := fun ready free => by
    have none_ : u.link.queue = [] := first.rest rest ready free
    show u.link.queue.filter _ = []
    rw [none_]; rfl
  obtain ⟨a, queueA, noneA⟩ := first.queue rest
  obtain ⟨b, queueB, noneB⟩ := last.queue restW
  refine ⟨last.rest restW, ⟨a.filter (fun r => !r.isRouteOf e.tag) ++ b, ?_, fun r m => ?_⟩,
    fun r n on => first.sending rest r n (last.sending restW r n on)⟩
  · have queueW : (withdraw e.tag u).link.queue = u.link.queue.filter fun r => !r.isRouteOf e.tag := rfl
    rw [queueB, queueW, queueA, List.filter_append, List.append_assoc]
  · exact (List.mem_append.mp m).elim (fun m => noneA r (List.mem_of_mem_filter m)) (noneB r)

/-! ### The end of a retirement -/

theorem ending_only (n : Bool) (c : Ctx) (tag : Tag) (s : State) :
    Only (.evaluator :: .holds :: .active :: .commitPending :: .mode :: raiseParts) s (ending n c tag s) :=
  .via (giveNotice_only ..) rfl (.via (commitIfQueueEmpty_only ..) rfl (.via (abandonEvaluation_only ..) rfl (.refl ..)))

theorem ending_offers (n : Bool) (c : Ctx) (tag : Tag) (s : State) : Offers s (ending n c tag s) :=
  ((abandonEvaluation_only tag s).offersQuiet rfl rfl rfl).trans
    ((commitIfQueueEmpty_offers c _).trans (giveNotice_offers n c _))

theorem ending_evaluator (n : Bool) (c : Ctx) (tag : Tag) (s : State) :
    (ending n c tag s).evaluator = (abandonEvaluation tag s).evaluator := by
  unfold ending
  rw [(giveNotice_only ..).evaluator.resolve_left (Part.unnamed rfl),
    (commitIfQueueEmpty_only ..).evaluator.resolve_left (Part.unnamed rfl)]

theorem flagSet_ending (n : Bool) (c : Ctx) (tag : Tag) (s : State) {f : Flag} (done : f ≠ .commitDone)
    (drained : f ≠ .drained) (o : f ≠ .outDropped) : flagSet (ending n c tag s) f = flagSet s f :=
  (flagSet_giveNotice_other n c drained o _).trans ((flagSet_commitIfQueueEmpty_other c done o _).trans
    ((abandonEvaluation_only ..).flagSet (Part.unnamed rfl) f))

theorem giveNotice_flags (n : Bool) (c : Ctx) (s : State) (f : Flag) (h : flagSet s f = true) :
    flagSet (giveNotice n c s) f = true := by
  unfold giveNotice drainEnd
  split
  · split
    · exact (raise_background ..).flags f (((enterStandby_only s).flagSet (Part.unnamed rfl) f).trans h)
    · exact h
  · exact h

theorem giveNotice_unrouted (n : Bool) (c : Ctx) (x : Tag) (s : State) :
    (findEntry x (giveNotice n c s)).map Entry.unrouted = (findEntry x s).map Entry.unrouted := by
  unfold giveNotice drainEnd
  split
  · split
    · rw [(raise_sends c .drained _).unrouted, findEntry_only (enterStandby_only s) (Part.unnamed rfl)]
    · rfl
  · rfl

theorem ending_unrouted (n : Bool) (c : Ctx) (tag x : Tag) (s : State) :
    (findEntry x (ending n c tag s)).map Entry.unrouted =
      (findEntry x (abandonEvaluation tag s)).map Entry.unrouted :=
  (giveNotice_unrouted n c x _).trans ((commitIfQueueEmpty_sends c _).unrouted x)

/-- The mode ends with the notice, where DRAINING has come to its end and the notice is taken here (R168). -/
theorem ending_mode (n : Bool) (c : Ctx) (tag : Tag) {s : State} :
    (s.agent.mode = .draining → s.tracker.blind = none → tagsOf s = [] →
      (ending n c tag s).agent.mode = (if n then .standby else .draining) ∧
        flagSet (ending n c tag s) .drained = (flagSet s .drained || n)) ∧
    (s.agent.mode ≠ .draining ∨ s.tracker.blind.isSome = true ∨ tagsOf s ≠ [] →
      (ending n c tag s).agent.mode = s.agent.mode ∧ flagSet (ending n c tag s) .drained = flagSet s .drained) := by
  obtain ⟨v, committed⟩ : ∃ v, v = commitIfQueueEmpty c (abandonEvaluation tag s) := ⟨_, rfl⟩
  have leaves : Only (.evaluator :: .holds :: .active :: .commitPending :: raiseParts) s v := by
    rw [committed]; exact .via (commitIfQueueEmpty_only ..) rfl (.via (abandonEvaluation_only ..) rfl (.refl ..))
  have mode : v.agent.mode = s.agent.mode := leaves.mode.resolve_left (Part.unnamed rfl)
  have blind : v.tracker.blind = s.tracker.blind := leaves.blind.resolve_left (Part.unnamed rfl)
  have tags : tagsOf v = tagsOf s := leaves.tagsKept rfl
  have flag : flagSet v .drained = flagSet s .drained := by
    rw [committed]
    exact (flagSet_commitIfQueueEmpty_other c (by decide) (by decide) _).trans
      ((abandonEvaluation_only ..).flagSet (Part.unnamed rfl) _)
  have run : ending n c tag s = giveNotice n c v := by rw [committed]; rfl
  have some_ : tagsOf v ≠ [] ↔ v.tracker.sheets ≠ [] := not_congr (sheets_nil_iff v).symm
  rw [run, ← mode, ← blind, ← tags, ← flag, ← sheets_nil_iff, some_]
  refine ⟨fun m b none_ => giveNotice_ends n c m none_ b, fun stays => ?_⟩
  rw [giveNotice_stays n c (stays.imp id Or.symm)]
  exact ⟨rfl, rfl⟩

/-- A pending commit takes effect when the queue empties, and else the banks stay (R119). -/
theorem ending_commit (n : Bool) (c : Ctx) (tag : Tag) (s : State) :
    (tagsOf s = [] → commitTaken s (ending n c tag s)) ∧
      (tagsOf s ≠ [] → (ending n c tag s).tables.active = s.tables.active ∧
        (ending n c tag s).tables.generation = s.tables.generation ∧
        (ending n c tag s).tables.commitPending = s.tables.commitPending) := by
  obtain ⟨v, abandoned⟩ : ∃ v, v = abandonEvaluation tag s := ⟨_, rfl⟩
  have leaves : Only [.entries, .evaluator] s v := abandoned ▸ abandonEvaluation_only ..
  have tags : tagsOf v = tagsOf s := leaves.tagsKept rfl
  have run : ending n c tag s = giveNotice n c (commitIfQueueEmpty c v) := by rw [abandoned]; rfl
  rw [run, ← tags, Ne, ← sheets_nil_iff]
  refine ⟨fun none_ => ?_, fun some_ => ?_⟩
  · have commits : commitIfQueueEmpty c v = commitIfPending c v := if_pos (by simp [none_])
    rw [commits]
    exact commitTaken_before leaves rfl rfl (commitTaken_after (giveNotice_only ..) rfl rfl
      (giveNotice_flags n c _) (commitIfPending_commits c v))
  · have stays : commitIfQueueEmpty c v = v := if_neg (by simpa using some_)
    rw [stays]
    have all : Only (.mode :: .evaluator :: raiseParts) s (giveNotice n c v) :=
      .via (giveNotice_only ..) rfl (leaves.mono rfl)
    obtain ⟨active, generation⟩ := all.active.resolve_left (Part.unnamed rfl)
    exact ⟨active, generation, all.commitPending.resolve_left (Part.unnamed rfl)⟩

/-- The evaluator after a retirement: another evaluation goes on, and the next one starts when its own is abandoned
(R93, R105). `s` is the state before. -/
theorem ending_takesNext (n : Bool) (c : Ctx) {tag : Tag} {s v : State} {f : InFlight}
    (flight : v.evaluator.inFlight = some f) (own : f.tag = tag)
    (same : ∀ x ∈ v.evaluator.list, (findEntry x v).map Entry.unrouted = (findEntry x s).map Entry.unrouted) :
    takesNext s (ending n c tag v) := by
  have evaluator := ending_evaluator n c tag v
  have unrouted := fun x => ending_unrouted n c tag x v
  rw [abandonEvaluation_own flight own] at evaluator unrouted
  obtain ⟨idle, next⟩ : takesNext s (startEvaluation (evaluatorIdle v)) :=
    startEvaluation_takesNext rfl fun x m y found => by
      have kept := same x m
      rw [found] at kept
      obtain ⟨z, foundZ, k⟩ := Option.map_eq_some_iff.mp kept
      exact ⟨z.route, by rw [← Entry.unrouted_eq_iff.mp k]; exact foundZ⟩
  unfold takesNext
  rw [evaluator]
  refine ⟨idle, fun x rest y list found => ?_⟩
  obtain ⟨taken, z, foundZ, status⟩ := next x rest y list found
  have kept := unrouted x
  rw [foundZ] at kept
  obtain ⟨q, foundQ, k⟩ := Option.map_eq_some_iff.mp kept
  refine ⟨taken, q, foundQ, ?_⟩
  have sameStatus : q.evalStatus = z.evalStatus :=
    (congrArg Entry.evalStatus k : q.unrouted.evalStatus = z.unrouted.evalStatus)
  rw [sameStatus]; exact status

theorem retirementReached_closed {tag : Tag} {s : State} {e : Entry} (found : findEntry tag s = some e)
    (closed : e.isOpen = false) (n : Bool) (w : Watch) :
    retirementReached tag n w s = retireEntry n (Ctx.at .tracker w.pos) e s := by
  unfold retirementReached
  rw [withEntry_some found]
  exact if_neg (by simp [closed])

/-- The tags left are none exactly when the queue held no other (R33). -/
theorem tags_left {s : State} {e : Entry} (d : tagsDistinct s) (found : findEntry e.tag s = some e) :
    (tagsOf s).filter (fun x => x ≠ e.tag) = [] ↔ tagsOf s = [e.tag] := by
  have member : e.tag ∈ tagsOf s := List.mem_map_of_mem (Stable.findEntry_mem found).1
  constructor
  · intro none_
    have all : ∀ x ∈ tagsOf s, x = e.tag := by simpa using none_
    refine List.perm_singleton.mp ((List.perm_ext_iff_of_nodup d (List.nodup_singleton _)).mpr fun x => ?_)
    exact ⟨fun m => List.mem_singleton.mpr (all x m), fun m => List.mem_singleton.mp m ▸ member⟩
  · intro only
    rw [only]; simp

/-- With its route PLACED the ROUTE record is on the link no longer, unless it is in sending (R141). -/
theorem retired_link (n : Bool) {c : Ctx} {e : Entry} {s : State} (rest : linkAtRest s) (placed : e.route = .placed) :
    (∃ added, (ending n c e.tag (leaving c e s)).link.queue =
      (s.link.queue.filter fun r => !r.isRouteOf e.tag) ++ added) ∧
    ∀ gate grade leading, onLink (.route e.tag gate grade leading) (ending n c e.tag (leaving c e s)) →
      s.link.sending = some (.route e.tag gate grade leading) := by
  have offers := ending_offers n c e.tag (leaving c e s)
  obtain ⟨restV, ⟨a, queueV, noneV⟩, sendingV⟩ := leaving_link (c := c) rest placed
  obtain ⟨b, queueT, noneT⟩ := offers.queue restV
  rw [queueV, List.append_assoc] at queueT
  refine ⟨⟨a ++ b, queueT⟩, fun gate grade leading on => ?_⟩
  rcases on with waiting | sent
  · rw [queueT] at waiting
    rcases List.mem_append.mp waiting with first | added
    · simpa [OutRecord.isRouteOf] using (List.mem_filter.mp first).2
    · have none_ := (List.mem_append.mp added).elim (noneV _) (noneT _)
      cases none_
  · exact sendingV _ rfl (offers.sending restV _ rfl sent)

/-- Settles O33: counted and reported, removed, and each block told. -/
theorem retirementReportsAndCounts : Obligations.RetirementReportsAndCounts := by
  intro s w e d distinct due found closed decided
  let n := Config.freeNotice s.draws
  let c := Ctx.at .tracker w.pos
  obtain ⟨u, drawn⟩ : ∃ u, u = draw (dropWatch w s) := ⟨_, rfl⟩
  have begun : Only [.draws, .watches] s u := by
    rw [drawn]; exact .via (draw_only _) rfl (.via (dropWatch_only w s) rfl (.refl ..))
  have foundU : findEntry e.tag u = some e := (findEntry_only begun (Part.unnamed rfl) e.tag).trans found
  have run : exec (.retirement e.tag) s = .next (ending n c e.tag (leaving c e u)) := by
    have taken : retirementReached e.tag n w u = ending n c e.tag (leaving c e u) :=
      (retirementReached_closed foundU closed n w).trans (retireEntry_eq ..)
    rw [← taken, drawn]
    exact congrArg Host.Outcome.next (takeNamed_due due)
  have before : Only (.tags :: .evaluator :: .holdings :: .holds :: .marker :: .grades :: .draws :: raiseParts) s
      (leaving c e u) := .via (leaving_only c e u) rfl (begun.mono rfl)
  have tagsU : tagsOf u = tagsOf s := begun.tagsKept rfl
  have evaluatorU : u.evaluator = s.evaluator := begun.evaluator.resolve_left (Part.unnamed rfl)
  have markerU : u.marker = s.marker := begun.marker.resolve_left (Part.unnamed rfl)
  have linkU : u.link = s.link := begun.link.resolve_left (Part.unnamed rfl)
  have settingsU : u.settings = s.settings := begun.settings.resolve_left (Part.unnamed rfl)
  have flagU : ∀ f, flagSet u f = flagSet s f := begun.flagSet (Part.unnamed rfl)
  have gradesU : u.attention.grades = s.attention.grades := begun.grades.resolve_left (Part.unnamed rfl)
  have tags := leaving_tags c e u
  have evaluator := leaving_evaluator c e u
  have marker := leaving_marker c e u
  have watches := leaving_watches c e u
  have grades := leaving_grades decided c u
  have report := leaving_report (s := u) decided c
  have flagsDrained := (flagSet_leaving c e u (f := .drained) (by decide) (by decide)).1 (by decide)
  obtain ⟨-, flagsLost, flagsKept⟩ := flagSet_leaving c e u (f := .diverted) (by decide) (by decide)
  have link := retired_link n (c := c) (e := e) (s := u)
  have others : ∀ x, x ≠ e.tag → (findEntry x (leaving c e u)).map Entry.unrouted =
      (findEntry x s).map Entry.unrouted := fun x other => by
    rw [leaving_findEntry c e other, findEntry_only begun (Part.unnamed rfl)]
  generalize leaving c e u = v at *
  rw [tagsU] at tags
  rw [evaluatorU] at evaluator
  rw [markerU] at marker
  rw [gradesU] at grades
  rw [linkU] at link
  have emptied : tagsOf v = [] ↔ tagsOf s = [e.tag] := by rw [tags]; exact tags_left distinct found
  have more : tagsOf v ≠ [] ↔ tagsOf s ≠ [e.tag] := not_congr emptied
  have mode : v.agent.mode = s.agent.mode := before.mode.resolve_left (Part.unnamed rfl)
  have blind : v.tracker.blind = s.tracker.blind := before.blind.resolve_left (Part.unnamed rfl)
  have drained : flagSet v .drained = flagSet s .drained := flagsDrained.trans (flagU _)
  have leaves := ending_only n c e.tag v
  have offers := ending_offers n c e.tag v
  have list : (ending n c e.tag v).evaluator.list = s.evaluator.list.filter (fun x => x ≠ e.tag) := by
    rw [ending_evaluator, abandonEvaluation_list, evaluator]
  have inFlight : v.evaluator.inFlight = s.evaluator.inFlight := by rw [evaluator]
  obtain ⟨ends, stays⟩ := ending_mode n c e.tag (s := v)
  obtain ⟨commits, keeps⟩ := ending_commit n c e.tag v
  rw [mode, blind, drained, emptied] at ends
  rw [mode, blind, drained, more] at stays
  rw [emptied] at commits
  rw [more] at keeps
  have diverted : flagSet (ending n c e.tag v) .diverted = flagSet v .diverted :=
    flagSet_ending n c e.tag v (by decide) (by decide) (by decide)
  refine ⟨_, run, (leaves.tagsKept rfl).trans tags, fun g => ?_, fun x m => watches x (offers.fewer.subset m),
    fun enabled room => ⟨_, report_is e d, offers.keeps _ rfl (report (by rw [settingsU]; exact enabled) ?_)⟩, ends,
    stays, fun lost => diverted.trans (flagsLost lost), fun kept => diverted.trans ((flagsKept kept).trans (flagU _)),
    fun rest placed => ?_, fun p stamp => ?_, list, fun f flight other => ?_, fun f flight own => ?_,
    fun only => commitTaken_before before rfl rfl (commits only), fun remain => ?_⟩
  · rw [leaves.grades.resolve_left (Part.unnamed rfl)]; exact grades g
  · unfold roomForOffered; rw [linkU]; exact room
  · exact link (linkAtRest_only begun (by simp) (by simp) rest) placed
  · rw [leaves.marker.resolve_left (Part.unnamed rfl), marker, stamp, Option.filter_some]
    by_cases own : p.tag = e.tag <;> simp [own]
  · have stays : abandonEvaluation e.tag v = v := abandonEvaluation_other fun g k => by
      rw [inFlight, flight] at k; cases k; exact other
    rw [ending_evaluator, stays, inFlight, flight]
  · exact ending_takesNext n c (inFlight.trans flight) own fun x m => others x (by
      rw [evaluator] at m
      simpa using (List.mem_filter.mp m).2)
  · obtain ⟨active, generation⟩ := before.active.resolve_left (Part.unnamed rfl)
    obtain ⟨activeT, generationT, pendingT⟩ := keeps remain
    exact ⟨activeT.trans active, generationT.trans generation,
      pendingT.trans (before.commitPending.resolve_left (Part.unnamed rfl))⟩

end Sys2Proof.Machine
end

section
/-! The Edge Hold List of an OPEN entry (R63 to R66): a feature joins its tail, and a feature leaves it as core,
given up by a full list (R65) or taken by its release position (R66). -/
namespace Sys2Proof.Machine
open Sys2Proof.Safety

/-! ### A held feature that leaves the list as core -/

theorem tallyAfter_core (b : Bank) (k : Fin 12) (t : ClassTally) (h : HeldFeature) : tallyAfter b .core k t h =
    if (b.classOf h.kind h.band .core).cls = some k then
      t.add (featureSize h.along h.across) (featureArea h.along h.across) else t := by
  unfold tallyAfter
  split
  · rfl
  · rfl

/-- An entry after a feature it held is tallied as core and `rest` stays on its list; `d` is the decision of a fatal one
(R68 to R71). -/
def Entry.givenUp (b : Bank) (d : Decision) (h : HeldFeature) (rest : List HeldFeature) (e : Entry) : Entry :=
  { e with held := rest }.classed (b.classOf h.kind h.band .core) d (featureSize h.along h.across)
    (featureArea h.along h.across)

section
variable (b : Bank) (d : Decision) (h : HeldFeature) (rest : List HeldFeature) (e : Entry)

theorem givenUp_tally (k : Fin 12) :
    (e.givenUp b d h rest).tally.get k = tallyAfter b .core k (e.tally.get k) h := by
  rw [Entry.givenUp, classed_tally, tallied_tally, tallyAfter_core]

theorem givenUp_total : (e.givenUp b d h rest).total = totalAfter e.total := (classed_counts ..).1

theorem givenUp_held : (e.givenUp b d h rest).held = rest := (classed_counts ..).2.1

theorem givenUp_state : (e.givenUp b d h rest).state = e.state := (classed_counts ..).2.2.2

theorem givenUp_tag : (e.givenUp b d h rest).tag = e.tag := by
  unfold Entry.givenUp Entry.classed; split <;> rfl

variable {b d h e}

/-- A fatal mark decides an undecided sheet (R71). -/
theorem givenUp_fatal (fatal : (b.classOf h.kind h.band .core).fatal = true) (undecided : e.decision = none)
    (source : d.source = .fatal) :
    (e.givenUp b d h rest).decision = some d ∧ (e.givenUp b d h rest).flags = { e.flags with fatal := true } := by
  rw [Entry.givenUp, classed_fatal (e := { e with held := rest }) fatal undecided]
  simp [Entry.decided, Entry.tallied, source]

theorem givenUp_quiet (quiet : (b.classOf h.kind h.band .core).fatal = false ∨ e.decision.isSome = true) :
    (e.givenUp b d h rest).decision = e.decision ∧ (e.givenUp b d h rest).flags = e.flags := by
  rw [Entry.givenUp, classed_quiet (e := { e with held := rest }) quiet]
  exact ⟨rfl, rfl⟩

end

/-- The fatal decision an entry would take as it stands (R45, R71). -/
def fatalDecision (s : State) (e : Entry) : Decision := (decisionBank s e).decide .fatal

/-- The feature `h` has left the list of `e` as core: tallied, one release position of its place no longer watched, and
no other entry touched. -/
structure GivesUp (s t : State) (e : Entry) (h : HeldFeature) (rest : List HeldFeature) : Prop where
  found : findEntry e.tag t = some (e.givenUp (s.tables.bank e.bank) (fatalDecision s e) h rest)
  releases : ((ofKind (.release e.tag) t).map (·.pos)).Perm
    (((ofKind (.release e.tag) s).map (·.pos)).erase h.releasePos)
  others : othersStay e.tag s t

/-- The tally of a feature that has been taken off the list, `m` being the state by then. -/
theorem tallyHeld_givesUp (c : Ctx) {s m : State} {e : Entry} {h : HeldFeature} {rest : List HeldFeature}
    (found : findEntry e.tag m = some { e with held := rest }) (tables : m.tables = s.tables)
    (releases : ((ofKind (.release e.tag) m).map (·.pos)).Perm
      (((ofKind (.release e.tag) s).map (·.pos)).erase h.releasePos))
    (others : othersStay e.tag s m) : GivesUp s (tallyHeld c e.tag .core h m) e h rest := by
  have tallies := tallyFeature_tallies c found h.kind h.band h.along h.across .core
  have decides : decisionBank m { e with held := rest } = decisionBank s e := by unfold decisionBank; rw [tables]
  rw [decides, tables] at tallies
  have entries : othersStay e.tag m (tallyHeld c e.tag .core h m) :=
    tallyFeature_others c e.tag h.kind h.band h.along h.across .core m
  refine ⟨tallies.found, ?_, othersStay.trans others entries⟩
  have same : ofKind (.release e.tag) (tallyHeld c e.tag .core h m) = ofKind (.release e.tag) m :=
    tallies.others _ (by simp) (by simp)
  rw [same]; exact releases

/-- The release positions stay those of the features held (R64). -/
theorem GivesUp.kept {s t : State} {e : Entry} {h : HeldFeature} {rest : List HeldFeature} (g : GivesUp s t e h rest)
    (held : e.held.Perm (h :: rest)) (kept : releasesKept e s) :
    ((ofKind (.release e.tag) t).map (·.pos)).Perm (rest.map (·.releasePos)) := by
  have before : (((ofKind (.release e.tag) s).map (·.pos)).erase h.releasePos).Perm
      (((h :: rest).map (·.releasePos)).erase h.releasePos) := (kept.trans (held.map _)).erase _
  rw [List.map_cons, List.erase_cons_head] at before
  exact g.releases.trans before

/-! ### Room on the list -/

theorem overflowHold_room (c : Ctx) {s : State} {e : Entry} (found : findEntry e.tag s = some e)
    (room : e.held.length < Config.edgeHoldMax) : overflowHold c e.tag s = s := by
  unfold overflowHold
  rw [withEntry_some found]
  split
  · exact if_neg (Nat.not_le.mpr room)
  · rfl

theorem overflowHold_full (c : Ctx) {s : State} {e : Entry} (found : findEntry e.tag s = some e)
    (full : Config.edgeHoldMax ≤ e.held.length) {oldest : HeldFeature} {rest : List HeldFeature}
    (held : e.held = oldest :: rest) : GivesUp s (overflowHold c e.tag s) e oldest rest := by
  let shorter := modifyEntry e.tag (fun x => { x with held := rest }) s
  have run : overflowHold c e.tag s =
      tallyHeld c e.tag .core oldest (disarmFirst (.release e.tag) oldest.releasePos shorter) := by
    unfold overflowHold
    rw [withEntry_some found, held]
    exact if_pos (held ▸ full)
  have foundM : findEntry e.tag shorter = some { e with held := rest } :=
    findEntry_modifyEntry_self (f := fun x => { x with held := rest }) (fun _ => rfl) found
  rw [run]
  refine tallyHeld_givesUp c (m := disarmFirst (.release e.tag) oldest.releasePos shorter) foundM rfl ?_ ?_
  · rw [ofKind_disarmFirst_self]; exact .refl _
  · exact modifyEntry_others (f := fun x => { x with held := rest }) (fun _ => rfl) s

/-- What the making of room does to the entry `e` that is about to hold one feature more, `x` being the entry then
(R65). -/
structure MakesRoom (s t : State) (e x : Entry) : Prop where
  found : findEntry e.tag t = some x
  tag : x.tag = e.tag
  state : x.state = e.state
  others : othersStay e.tag s t
  kept : releasesKept e s → ((ofKind (.release e.tag) t).map (·.pos)).Perm (x.held.map (·.releasePos))
  room : e.held.length < Config.edgeHoldMax → x = e
  full : ∀ oldest rest, e.held = oldest :: rest → Config.edgeHoldMax ≤ e.held.length →
    x = e.givenUp (s.tables.bank e.bank) (fatalDecision s e) oldest rest

theorem overflowHold_makesRoom (c : Ctx) {s : State} {e : Entry} (found : findEntry e.tag s = some e) :
    ∃ x, MakesRoom s (overflowHold c e.tag s) e x := by
  by_cases room : e.held.length < Config.edgeHoldMax
  · rw [overflowHold_room c found room]
    exact ⟨e, found, rfl, rfl, fun _ _ => rfl, id, fun _ => rfl, fun _ _ _ full => absurd room (Nat.not_lt.mpr full)⟩
  · have full : Config.edgeHoldMax ≤ e.held.length := Nat.not_lt.mp room
    obtain ⟨oldest, rest, held⟩ : ∃ oldest rest, e.held = oldest :: rest :=
      List.exists_cons_of_length_pos (Nat.lt_of_lt_of_le (by decide) full)
    have gives := overflowHold_full c found full held
    refine ⟨_, gives.found, givenUp_tag .., givenUp_state .., gives.others, fun kept => ?_, fun k => absurd k room,
      fun o r same _ => ?_⟩
    · rw [givenUp_held]
      exact gives.kept (held ▸ .refl _) kept
    · rw [held] at same
      obtain ⟨rfl, rfl⟩ := List.cons.inj same
      rfl

/-! ### A feature joins the list -/

theorem ofKind_arm_self (c : Ctx) (k : WatchKind) (p : Position) (s : State) :
    (ofKind k (arm c k p s)).map (·.pos) = (ofKind k s).map (·.pos) ++ [p] := by
  simp [ofKind, arm, List.filter_append]

/-- An entry with one feature more at the tail of its list (R64). -/
def Entry.holds (h : HeldFeature) (e : Entry) : Entry := { e with held := e.held ++ [h] }

/-- A feature held, on a list that has room by then (R64, R65). -/
structure Holds (s t : State) (e x : Entry) (h : HeldFeature) : Prop where
  found : findEntry e.tag t = some (x.holds h)
  armed : watched t (.release e.tag) h.releasePos
  kept : releasesKept e s → releasesKept (x.holds h) t
  others : othersStay e.tag s t

theorem holdFeature_holds (c : Ctx) (h : HeldFeature) {s : State} {e x : Entry}
    (room : MakesRoom s (overflowHold c e.tag s) e x) : Holds s (holdFeature c e.tag h s) e x h := by
  obtain ⟨found, tag, -, others, kept, -, -⟩ := room
  let u := overflowHold c e.tag s
  let m := modifyEntry e.tag (Entry.holds h) u
  have joined : findEntry e.tag m = some (x.holds h) := findEntry_modifyEntry_self (fun _ => rfl) found
  have armed : Only [.watches] m (holdFeature c e.tag h s) := arm_only c (.release e.tag) h.releasePos m
  refine ⟨(findEntry_only armed (Part.unnamed rfl) _).trans joined, watched_arm .., fun k => ?_,
    othersStay.trans others
      (othersStay.trans (modifyEntry_others (f := Entry.holds h) (fun _ => rfl) u) (armed.othersStay rfl e.tag))⟩
  have positions : (ofKind (.release e.tag) (holdFeature c e.tag h s)).map (·.pos) =
      (ofKind (.release e.tag) u).map (·.pos) ++ [h.releasePos] := ofKind_arm_self c (.release e.tag) h.releasePos m
  have own : (x.holds h).tag = e.tag := tag
  have heldNow : (x.holds h).held.map (·.releasePos) = x.held.map (·.releasePos) ++ [h.releasePos] := by
    simp [Entry.holds]
  unfold releasesKept
  rw [own, heldNow]
  exact positions ▸ (kept k).append_right [h.releasePos]

/-- A feature outside the edge zone, with an Edge Zone Distance above 0, is held (R62 to R64). -/
theorem classifyFeature_holds {tag : Tag} {s : State} {e : Entry} (found : findEntry tag s = some e) {lane : Lane}
    {pos : Position} (inside : arrivesAtEdge (s.tables.bank e.bank) e lane pos = false)
    (distance : (s.tables.bank e.bank).edgeZone ≠ 0) (c : Ctx) (kind : BitVec 5) (along across : Word) :
    classifyFeature c tag lane kind along across pos s =
      holdFeature c tag ⟨kind, sizeBand (s.tables.bank e.bank).bandLimits (featureSize along across), along, across,
        pos + bu (s.tables.bank e.bank).edgeZone⟩ s := by
  unfold classifyFeature
  rw [withEntry_some found]
  dsimp only
  rw [inside, if_neg Bool.false_ne_true, if_neg distance]

/-- Settles O24: room is made, then the feature joins the tail. -/
theorem featureIsHeld : Obligations.FeatureIsHeld := by
  intro s e lane kind along across offset taken d ok attributed inside distance
  let a := armSilence s
  obtain ⟨member, opened, -, -⟩ := attributedTo_some attributed
  have found : findEntry e.tag a = some e := findEntry_self (s := a) d member
  have row : traffic s (.feature s.scan.deckValue lane kind along across offset) = some (s.scan.deckValue, true) :=
    congrArg (fun b => some (s.scan.deckValue, b)) ok
  obtain ⟨h, held⟩ : ∃ h : HeldFeature, h =
    ⟨kind, sizeBand (s.tables.bank e.bank).bandLimits (max along.toNat across.toNat), along, across,
      placed s s.position.belt offset + bu (s.tables.bank e.bank).edgeZone⟩ := ⟨_, rfl⟩
  have run : exec (.feature s.scan.deckValue lane kind along across offset) s =
      .next (holdFeature (Ctx.now a) e.tag h a) := by
    have act : takeFeature lane kind along across offset s.position.belt a =
        classifyFeature (Ctx.now a) e.tag lane kind along across (placed a s.position.belt offset) a := by
      have attributed : attributedTo lane a = some e := attributed
      unfold takeFeature; rw [attributed]
    rw [exec_accepted taken row, held]
    exact congrArg Host.Outcome.next (act.trans (classifyFeature_holds found inside distance ..))
  obtain ⟨x, room⟩ := overflowHold_makesRoom (Ctx.now a) found
  obtain ⟨foundT, armed, kept, others⟩ := holdFeature_holds (Ctx.now a) h room
  have before : releasesKept e s → releasesKept e a := fun k => by
    have same : ofKind (.release e.tag) a = ofKind (.release e.tag) s := armSilence_ofKind s (by simp)
    exact List.Perm.trans (.of_eq (congrArg (List.map (·.pos)) same)) k
  rw [← held]
  refine ⟨_, _, h, run, foundT, rfl, armed, others, room.state.trans opened, kept ∘ before, fun less => ?_,
    fun oldest rest same full => ?_⟩
  · rw [room.room less]
    exact ⟨rfl, rfl, rfl, rfl, rfl⟩
  · have gone := room.full oldest rest same (Nat.le_of_eq full.symm)
    have mark : anyFatal (s.tables.bank e.bank) .core [oldest] =
        ((s.tables.bank e.bank).classOf oldest.kind oldest.band .core).fatal := by simp [anyFatal]
    rw [gone, mark]
    refine ⟨congrArg (· ++ [h]) (givenUp_held ..), givenUp_total .., fun k => givenUp_tally ..,
      fun fatal undecided => ?_, fun quiet => ?_⟩
    · exact givenUp_fatal rest fatal undecided (decide_source ..)
    · exact givenUp_quiet rest quiet

/-! ### A release position reached -/

/-- The feature taken is one of the list with that release position, and the others stay (log 18). -/
theorem takeHeld_some {pos : Position} : ∀ {held : List HeldFeature} {h : HeldFeature} {rest : List HeldFeature},
    takeHeld pos held = some (h, rest) → h.releasePos = pos ∧ held.Perm (h :: rest)
  | [], _, _, taken => by cases taken
  | g :: held, h, rest, taken => by
    unfold takeHeld at taken
    split at taken
    · next here =>
      obtain ⟨rfl, rfl⟩ : g = h ∧ held = rest := by simpa using taken
      exact ⟨here, .refl _⟩
    · next there =>
      obtain ⟨x, l, later, rfl, rfl⟩ : ∃ x l, takeHeld pos held = some (x, l) ∧ x = h ∧ g :: l = rest := by
        simpa using taken
      obtain ⟨place, perm⟩ := takeHeld_some later
      exact ⟨place, (perm.cons g).trans (.swap ..)⟩

/-- A position due next is watched. -/
theorem comesDue_mem {s : State} {k : WatchKind} {w : Watch} (due : comesDue s k w) : w ∈ s.watches := by
  obtain ⟨-, l, r, split, -, -⟩ := nextDue_firstFurthest due.1
  rw [split]; simp

/-- A position taken is one of its kind and place no longer watched. -/
theorem ofKind_dropWatch {s : State} {k : WatchKind} {w : Watch} (due : comesDue s k w) :
    ((ofKind k (dropWatch w s)).map (·.pos)).Perm (((ofKind k s).map (·.pos)).erase w.pos) := by
  have split : (ofKind k s).Perm (w :: ofKind k (dropWatch w s)) := by
    have all := (List.perm_cons_erase (comesDue_mem due)).filter (fun x => x.kind = k)
    rw [List.filter_cons, if_pos (decide_eq_true due.2)] at all
    exact all
  have erased := (split.map (·.pos)).erase w.pos
  rw [List.map_cons, List.erase_cons_head] at erased
  exact erased.symm

theorem releaseFeature_givesUp {s : State} {e : Entry} {w : Watch} (due : comesDue s (.release e.tag) w)
    (found : findEntry e.tag s = some e) {h : HeldFeature} {rest : List HeldFeature}
    (taken : takeHeld w.pos e.held = some (h, rest)) :
    GivesUp s (releaseFeature e.tag w (dropWatch w s)) e h rest := by
  let u := dropWatch w s
  let m := modifyEntry e.tag (fun x => { x with held := rest }) u
  have foundU : findEntry e.tag u = some e := (findEntry_dropWatch w e.tag s).trans found
  have run : releaseFeature e.tag w u = tallyHeld (Ctx.at .classifier w.pos) e.tag .core h m := by
    unfold releaseFeature
    rw [withEntry_some foundU]
    simp only [taken]
    rfl
  rw [run]
  refine tallyHeld_givesUp _ (m := m) ?_ rfl ?_ ?_
  · exact findEntry_modifyEntry_self (f := fun x => { x with held := rest }) (fun _ => rfl) foundU
  · rw [(takeHeld_some taken).1]; exact ofKind_dropWatch due
  · exact othersStay.trans (fun x _ => findEntry_dropWatch w x s)
      (modifyEntry_others (f := fun x => { x with held := rest }) (fun _ => rfl) u)

/-- Settles O35: the feature its release position takes is given up as core. -/
theorem releaseTalliesAsCore : Obligations.ReleaseTalliesAsCore := by
  intro s w e h rest _ due found taken
  have run : exec (.releasePosition e.tag) s = .next (releaseFeature e.tag w (dropWatch w s)) :=
    congrArg Host.Outcome.next (takeNamed_due due)
  have gives := releaseFeature_givesUp due found taken
  refine ⟨_, _, _, run, gives.found, givenUp_held .., rfl, fun k => givenUp_tally .., givenUp_total ..,
    givenUp_state .., fun fatal undecided => ?_, fun kept => ?_, fun quiet => (givenUp_quiet rest (.inl quiet)).1, gives.others⟩
  · exact ⟨_, (givenUp_fatal rest fatal undecided (decide_source ..)).1, decide_source ..⟩
  · unfold releasesKept
    rw [givenUp_tag, givenUp_held]
    exact gives.kept (takeHeld_some taken).2 kept

end Sys2Proof.Machine
end

section
/-! The store of one element of a table object (R77, R86, R108, R116, R154, R188): the check of each of its values, what
the element reads once it is stored, and what the store leaves. -/
namespace Sys2Proof.Machine
open Sys2Proof.Safety

/-! ### Values judged in their order -/

/-- A check of the `len` values from place `start` on: with all in range it gives a result with `P`, and otherwise the
place of the first one out of range. -/
structure Judged {α : Type} (start len : Nat) (fits : Nat → Bool) (r : Except Nat α) (P : α → Prop) : Prop where
  good : (∀ j, start ≤ j → j < start + len → fits j = true) → ∃ a, r = .ok a ∧ P a
  bad : ∀ j, start ≤ j → j < start + len → fits j = false → (∀ i, start ≤ i → i < j → fits i = true) → r = .error j

theorem Judged.one {α : Type} {pos : Nat} {fits : Nat → Bool} {r : Except Nat α} {P : α → Prop}
    (good : fits pos = true → ∃ a, r = .ok a ∧ P a) (bad : fits pos = false → r = .error pos) :
    Judged pos 1 fits r P := by
  refine ⟨fun all => good (all pos (le_refl _) (Nat.lt_succ_self _)), fun j low high out _ => ?_⟩
  obtain rfl : j = pos := by omega
  exact bad out

theorem Judged.map {α β : Type} {start len : Nat} {fits : Nat → Bool} {r : Except Nat α} {P : α → Prop} {Q : β → Prop}
    (h : Judged start len fits r P) {g : α → β} (k : ∀ a, P a → Q (g a)) : Judged start len fits (r.map g) Q := by
  refine ⟨fun all => ?_, fun j low high out first => ?_⟩
  · obtain ⟨a, rfl, p⟩ := h.good all
    exact ⟨g a, rfl, k a p⟩
  · rw [h.bad j low high out first]; rfl

/-- One check, and then the next ones. -/
theorem Judged.bind {α β : Type} {start m len : Nat} {fits : Nat → Bool} {r : Except Nat α} {P : α → Prop}
    {f : α → Except Nat β} {Q : β → Prop} (h : Judged start m fits r P)
    (k : ∀ a, P a → Judged (start + m) len fits (f a) Q) : Judged start (m + len) fits (r.bind f) Q := by
  refine ⟨fun all => ?_, fun j low high out first => ?_⟩
  · obtain ⟨a, rfl, p⟩ := h.good fun j low high => all j low (by omega)
    exact (k a p).good fun j low high => all j (by omega) (by omega)
  · by_cases early : j < start + m
    · rw [h.bad j low early out first]; rfl
    · obtain ⟨a, rfl, p⟩ := h.good fun i low high => first i low (by omega)
      exact (k a p).bad j (by omega) (by omega) out fun i low less => first i (by omega) less

/-- Values after the ones checked that take any value. -/
theorem Judged.unchecked {α : Type} {start m len : Nat} {fits : Nat → Bool} {r : Except Nat α} {P : α → Prop}
    (h : Judged start m fits r P) (free : ∀ j, start + m ≤ j → fits j = true) : Judged start (m + len) fits r P := by
  refine ⟨fun all => h.good fun j low high => all j low (by omega), fun j low _ out first => h.bad j low ?_ out first⟩
  by_contra late
  rw [free j (by omega)] at out
  cases out

/-! ### The check of one value or quantity (R77, R108, R188) -/

theorem within_judged {pos lo hi : Nat} {w : Word} {fits : Nat → Bool}
    (h : fits pos = true ↔ lo ≤ w.toNat ∧ w.toNat ≤ hi) :
    Judged pos 1 fits (within pos lo hi w) fun v => v = w ∧ w.toNat ≤ hi := by
  refine .one (fun k => ⟨w, if_pos (h.mp k), rfl, (h.mp k).2⟩) fun k => if_neg fun range => ?_
  rw [h.mpr range] at k; cases k

theorem val_toNat (w : Word) : val w.toNat = w := by simp [val]

theorem below_judged {pos n : Nat} {w : Word} {fits : Nat → Bool} (h : fits pos = true ↔ w.toNat < n) :
    Judged pos 1 fits (below pos n w) fun v => val v.val = w := by
  refine .one (fun k => ⟨⟨w.toNat, h.mp k⟩, dif_pos (h.mp k), val_toNat w⟩) fun k => dif_neg fun range => ?_
  rw [h.mpr range] at k; cases k

theorem onOff_judged {pos : Nat} {w : Word} {fits : Nat → Bool} (h : fits pos = true ↔ w.toNat ≤ 1) :
    Judged pos 1 fits (onOff pos w) fun b => valBool b = w := by
  refine .one (fun k => ?_) fun k => onOff_bad (Nat.not_le.mp fun range => ?_) pos
  · have range := h.mp k
    have flag : w = 0 ∨ w = 1 := by bv_omega
    refine ⟨_, onOff_ok flag pos, ?_⟩
    rcases flag with rfl | rfl <;> rfl
  · rw [h.mpr range] at k; cases k

/-- An absent quantity is not checked and reads as 0 (R116, 12.3). -/
theorem optional_judged {pos lo hi : Nat} {p w : Word} {fits : Nat → Bool} (present : fits pos = true ↔ p.toNat ≤ 1)
    (quantity : fits (pos + 1) = true ↔ (p ≠ 0 → lo ≤ w.toNat ∧ w.toNat ≤ hi)) :
    Judged pos 2 fits (optional pos lo hi p w) fun o => valOpt1 o = [p, if p = 0 then 0 else w] := by
  have zero : p = 0 → optional pos lo hi p w = .ok none := fun k => if_pos k
  have one : p = 1 → optional pos lo hi p w = (within (pos + 1) lo hi w).map some := by rintro rfl; rfl
  have flag : fits pos = true → p = 0 ∨ p = 1 := fun k => by
    have range := present.mp k
    bv_omega
  refine ⟨fun all => ?_, fun j low high out first => ?_⟩
  · rcases flag (all pos (le_refl _) (by omega)) with rfl | rfl
    · exact ⟨none, zero rfl, rfl⟩
    · obtain ⟨least, most⟩ := quantity.mp (all (pos + 1) (by omega) (by omega)) (by decide)
      rw [one rfl, within_in least most]
      exact ⟨some w, rfl, rfl⟩
  · obtain rfl | rfl : j = pos ∨ j = pos + 1 := by omega
    · have big : ¬ p.toNat ≤ 1 := fun k => by rw [present.mpr k] at out; cases out
      have notZero : p ≠ 0 := by rintro rfl; exact big (by decide)
      have notOne : p ≠ 1 := by rintro rfl; exact big (by decide)
      unfold optional
      rw [if_neg notZero, if_neg notOne]
    · have outside : ¬ (p ≠ 0 → lo ≤ w.toNat ∧ w.toNat ≤ hi) := fun k => by rw [quantity.mpr k] at out; cases out
      obtain ⟨notZero, range⟩ := Classical.not_imp.mp outside
      rw [one ((flag (first pos (le_refl _) (by omega))).resolve_left notZero), within_out (by omega)]
      rfl

theorem patternOf_judged {pos : Nat} {w : Word} {fits : Nat → Bool}
    (h : fits pos = true ↔ w = 0x00FF ∨ w.toNat ≤ 7) :
    Judged pos 1 fits (patternOf pos w) fun p => valPattern p = w := by
  by_cases none_ : w = 0x00FF
  · have run : patternOf pos w = .ok none := if_pos none_
    exact .one (fun _ => ⟨none, run, none_.symm⟩) fun k => by rw [h.mpr (.inl none_)] at k; cases k
  · have run : patternOf pos w = (below pos 8 w).map some := if_neg none_
    have range : fits pos = true ↔ w.toNat < 8 := by rw [h, or_iff_right none_]; omega
    rw [run]
    exact (below_judged range).map fun _ p => p

/-- A Class Table value is its code in bits 7 to 0 and its fatal mark in bit 15, when the bits between are 0. -/
theorem classValue_parts {w : Word} (between : w &&& 0x7F00 = 0) :
    (w &&& 0x00FF) ||| (if w.getLsbD 15 then 0x8000 else 0) = w := by
  refine BitVec.eq_of_getLsbD_eq fun i less => ?_
  have bit := congrArg (·.getLsbD i) between
  clear between
  cases fatal : w.getLsbD 15 <;> interval_cases i <;> simp_all

theorem classEntryOf_judged {pos : Nat} {w : Word} {fits : Nat → Bool}
    (h : fits pos = true ↔ w &&& 0x7F00 = 0 ∧ (w &&& 0x00FF = 0x00FF ∨ (w &&& 0x00FF).toNat ≤ 11)) :
    Judged pos 1 fits (classEntryOf pos w) fun e => e.value = w := by
  by_cases clear : w &&& 0x7F00 = 0
  · by_cases ignore : w &&& 0x00FF = 0x00FF
    · have run : classEntryOf pos w = .ok ⟨none, w.getLsbD 15⟩ := by
        unfold classEntryOf; rw [if_neg (not_not.mpr clear)]; exact if_pos ignore
      refine .one (fun _ => ⟨_, run, ?_⟩) fun k => by rw [h.mpr ⟨clear, .inl ignore⟩] at k; cases k
      exact (congrArg (· ||| _) ignore.symm).trans (classValue_parts clear)
    · have run : classEntryOf pos w =
          (below pos 12 (w &&& 0x00FF)).map fun k => ⟨some k, w.getLsbD 15⟩ := by
        unfold classEntryOf; rw [if_neg (not_not.mpr clear)]; exact if_neg ignore
      have range : fits pos = true ↔ (w &&& 0x00FF).toNat < 12 := by
        rw [h, or_iff_right ignore, and_iff_right clear]; omega
      rw [run]
      exact (below_judged range).map fun k same => (congrArg (· ||| _) same).trans (classValue_parts clear)
  · have run : classEntryOf pos w = .error pos := if_pos clear
    exact .one (fun k => absurd (h.mp k).1 clear) fun _ => run

/-! ### A rule field and a class limit item -/

theorem map_ok {α β : Type} {f : α → β} {r : Except Nat α} {b : β} (h : r.map f = .ok b) :
    ∃ a, r = .ok a ∧ f a = b := by
  cases r with
  | error => cases h
  | ok a => exact ⟨a, rfl, by cases h; rfl⟩

/-- The store of a field leaves the other fields and the items of its rule. -/
theorem storeField_frame {r r' : Rule} {f : Nat} {vs : List Word} (h : r.storeField f vs = .ok r') :
    (∀ g < 9, g ≠ f → r'.field g = r.field g) ∧ r'.items = r.items := by
  unfold Rule.storeField at h
  split at h
  case h_10 => cases h
  all_goals
    obtain ⟨v, -, rfl⟩ := map_ok h
    refine ⟨fun g less other => ?_, rfl⟩
    interval_cases g <;> simp [Rule.field] at other ⊢

/-- A field takes one value, or presence and value, and reads them back (R108, 12.3). -/
theorem storeField_judged (r : Rule) {f : Nat} (inside : f < 9) {vs : List Word}
    (length : vs.length = (Object.table .ruleFields).size f) :
    Judged 0 ((Object.table .ruleFields).size f) (valueFits .ruleFields f vs) (r.storeField f vs)
      fun r' => r'.field f = asRead .ruleFields f vs := by
  by_cases quantity : 3 ≤ f ∧ f ≤ 6
  · have two : (Object.table .ruleFields).size f = 2 := by simp [Object.size]; omega
    obtain ⟨p, w, rfl⟩ := List.length_eq_two.mp (length.trans two)
    rw [two]
    obtain rfl | rfl | rfl | rfl : f = 3 ∨ f = 4 ∨ f = 5 ∨ f = 6 := by omega
    · exact (optional_judged (by simp [valueFits]) (by simp [valueFits]; omega)).map fun v same => same
    · exact (optional_judged (by simp [valueFits]) (by simp [valueFits]; tauto)).map fun v same => same
    · exact (optional_judged (by simp [valueFits]) (by simp [valueFits]; tauto)).map fun v same => same
    · exact (optional_judged (by simp [valueFits]) (by simp [valueFits]; omega)).map fun v same => same
  · have one : (Object.table .ruleFields).size f = 1 := by simp [Object.size]; omega
    obtain ⟨w, rfl⟩ := List.length_eq_one_iff.mp (length.trans one)
    rw [one]
    obtain rfl | rfl | rfl | rfl | rfl : f = 0 ∨ f = 1 ∨ f = 2 ∨ f = 7 ∨ f = 8 := by omega
    · exact (below_judged (by simp [valueFits]; omega)).map fun v same => congrArg ([·]) same
    · exact (below_judged (by simp [valueFits]; omega)).map fun v same => congrArg ([·]) same
    · exact (patternOf_judged (by simp [valueFits])).map fun v same => congrArg ([·]) same
    · refine (onOff_judged (by simp [valueFits])).map fun v same => ?_
      cases v <;> exact congrArg ([·]) same
    · exact (below_judged (by simp [valueFits]; omega)).map fun v same => congrArg ([·]) same

/-- The checks of a class limit item run in the order of its values. -/
theorem classLimitOf_eq (k pc c ps z pa a : Word) : classLimitOf [k, pc, c, ps, z, pa, a] =
    (below 0 12 k).bind fun k => (optional 1 0 255 pc c).bind fun c => (optional 3 0 4095 ps z).bind fun z =>
      (optional 5 0 65535 pa a).map fun a => ⟨k, c, z, a⟩ := by
  unfold classLimitOf
  dsimp only
  cases below 0 12 k with
  | error => rfl
  | ok =>
    cases optional 1 0 255 pc c with
    | error => rfl
    | ok =>
      cases optional 3 0 4095 ps z with
      | error => rfl
      | ok => cases optional 5 0 65535 pa a <;> rfl

/-- A class limit item takes a class and three optional maxima (R108). -/
theorem classLimitOf_judged {vs : List Word} (i : Nat) (length : vs.length = 7) :
    Judged 0 7 (valueFits .classLimits i vs) (classLimitOf vs) fun l => l.values = asRead .classLimits i vs := by
  obtain ⟨k, pc, c, ps, z, pa, a, rfl⟩ : ∃ k pc c ps z pa a : Word, vs = [k, pc, c, ps, z, pa, a] := by
    match vs, length with
    | [k, pc, c, ps, z, pa, a], _ => exact ⟨k, pc, c, ps, z, pa, a, rfl⟩
  rw [classLimitOf_eq]
  refine Judged.bind (m := 1) (len := 6) (below_judged (by simp [valueFits]; omega)) fun k' sameK => ?_
  refine Judged.bind (m := 2) (len := 4) (optional_judged (by simp [valueFits]) (by simp [valueFits]; tauto))
    fun c' sameC => ?_
  refine Judged.bind (m := 2) (len := 2) (optional_judged (by simp [valueFits]) (by simp [valueFits]; tauto))
    fun z' sameZ => ?_
  refine Judged.map (optional_judged (by simp [valueFits]) (by simp [valueFits]; omega)) fun a' sameA => ?_
  unfold ClassLimit.values
  rw [sameK, sameC, sameZ, sameA]
  rfl

/-! ### The store of one element -/

theorem elem_set_self {α : Type} {n : Nat} (v : Vector α n) {i : Nat} (inside : i < n) (x d : α) :
    elem (v.setIfInBounds i x) i d = x := by
  simp [elem, inside]

theorem elem_set_other {α : Type} {n : Nat} (v : Vector α n) {i j : Nat} (other : j ≠ i) (x d : α) :
    elem (v.setIfInBounds i x) j d = elem v j d := by
  simp [elem, Vector.getElem?_setIfInBounds_ne other.symm]

theorem get_set_self {α : Type} {n : Nat} (v : Vector α n) (i : Fin n) (x : α) :
    (v.setIfInBounds i.val x).get i = x := by
  rw [← elem_get _ i x, elem_set_self v i.isLt]

theorem get_set_other {α : Type} {n : Nat} (v : Vector α n) {i j : Fin n} (other : j ≠ i) (x : α) :
    (v.setIfInBounds i.val x).get j = v.get j := by
  rw [← elem_get _ j x, elem_set_other v (fun same => other (Fin.ext same)), elem_get]

/-- The bank with one of its rules replaced. -/
def Bank.setRule (b : Bank) (n : Nat) (r : Rule) : Bank := { b with rules := b.rules.setIfInBounds n r }

/-- The rule a rule field or a class limit item belongs to. -/
def Bank.ruleAt (b : Bank) (n : Nat) : Rule := elem b.rules n Rule.powerOn

theorem ruleAt_setRule (b : Bank) {n : Nat} (inside : n < 8) (r : Rule) : (b.setRule n r).ruleAt n = r :=
  elem_set_self b.rules inside r Rule.powerOn

theorem ruleAt_setRule_other (b : Bank) {n m : Nat} (other : m ≠ n) (r : Rule) :
    (b.setRule n r).ruleAt m = b.ruleAt m := elem_set_other b.rules other r Rule.powerOn

/-- Every element but element `i` of an object reads the same in two banks (R116). -/
def framed (s : State) (o : TableObject) (i : Nat) (b b' : Bank) : Prop :=
  ∀ (x : TableObject) (j : Nat), j < (Object.table x).elements s → x ≠ o ∨ j ≠ i → x.read b' j = x.read b j

/-- The two kinds of other elements. -/
theorem framed_of {s : State} {o : TableObject} {i : Nat} {b b' : Bank}
    (object : ∀ x : TableObject, x ≠ o → ∀ j, j < (Object.table x).elements s → x.read b' j = x.read b j)
    (element : ∀ j, j < (Object.table o).elements s → j ≠ i → o.read b' j = o.read b j) : framed s o i b b' := by
  intro x j inside other
  by_cases same : x = o
  · subst same; exact element j inside (other.resolve_left (not_not.mpr rfl))
  · exact object x same j inside

theorem ruleField_framed (s : State) (b : Bank) {i : Nat} (inside : i < 72) {r : Rule}
    (fields : ∀ g < 9, g ≠ i % 9 → r.field g = (b.ruleAt (i / 9)).field g)
    (items : r.items = (b.ruleAt (i / 9)).items) :
    framed s .ruleFields i b (b.setRule (i / 9) r) := by
  refine framed_of (fun x n j less => ?_) fun j less other => ?_
  · cases x
    case ruleFields => exact absurd rfl n
    case classLimits =>
      have rule : ((b.setRule (i / 9) r).ruleAt (j / 12)).items = (b.ruleAt (j / 12)).items := by
        by_cases same : j / 12 = i / 9
        · rw [same, ruleAt_setRule b (by omega), items]
        · rw [ruleAt_setRule_other b same]
      exact congrArg (fun v : Vector ClassLimit 12 => (elem v (j % 12) ⟨0, none, none, none⟩).values) rule
    all_goals rfl
  · show ((b.setRule (i / 9) r).ruleAt (j / 9)).field (j % 9) = (b.ruleAt (j / 9)).field (j % 9)
    by_cases same : j / 9 = i / 9
    · rw [same, ruleAt_setRule b (by omega)]
      exact fields _ (by omega) (by omega)
    · rw [ruleAt_setRule_other b same]

theorem classLimit_framed (s : State) (b : Bank) {i : Nat} (inside : i < 96) (l : ClassLimit) :
    framed s .classLimits i b (b.setRule (i / 12)
      { b.ruleAt (i / 12) with items := (b.ruleAt (i / 12)).items.setIfInBounds (i % 12) l }) := by
  obtain ⟨r, rule⟩ : ∃ r : Rule, r =
    { b.ruleAt (i / 12) with items := (b.ruleAt (i / 12)).items.setIfInBounds (i % 12) l } := ⟨_, rfl⟩
  rw [← rule]
  refine framed_of (fun x n j less => ?_) fun j less other => ?_
  · cases x
    case classLimits => exact absurd rfl n
    case ruleFields =>
      show ((b.setRule (i / 12) r).ruleAt (j / 9)).field (j % 9) = (b.ruleAt (j / 9)).field (j % 9)
      by_cases same : j / 9 = i / 12
      · rw [same, ruleAt_setRule b (by omega), rule]; rfl
      · rw [ruleAt_setRule_other b same]
    all_goals rfl
  · have item : elem ((b.setRule (i / 12) r).ruleAt (j / 12)).items (j % 12) ⟨0, none, none, none⟩ =
        elem (b.ruleAt (j / 12)).items (j % 12) ⟨0, none, none, none⟩ := by
      by_cases same : j / 12 = i / 12
      · rw [same, ruleAt_setRule b (by omega), rule]
        exact elem_set_other _ (by omega) ..
      · rw [ruleAt_setRule_other b same]
    exact congrArg ClassLimit.values item

/-- The checks of an outcome run in the order of its values. -/
theorem store_outcome (i : Nat) (g p : Word) (b : Bank) : TableObject.outcomes.store i [g, p] b =
    ((below 0 6 g).bind fun g => (patternOf 1 p).map (ReservedOutcome.mk g)).map fun o =>
      { b with outcomes := b.outcomes.setIfInBounds i o } := by
  unfold TableObject.store
  dsimp only
  cases below 0 6 g with
  | error => rfl
  | ok => cases patternOf 1 p <;> rfl

/-- The upper value of a pattern row is one byte (12.3). -/
theorem store_pattern (i : Nat) (hi lo : Word) (b : Bank) : TableObject.patterns.store i [hi, lo] b =
    (within 0 0 0xFF hi).map fun hi => { b with patterns := b.patterns.setIfInBounds i (hi.setWidth 8 ++ lo) } := by
  by_cases byte : hi.toNat ≤ 0xFF
  · rw [within_in (Nat.zero_le _) byte]
    exact if_neg (Nat.not_lt.mpr byte)
  · rw [within_out (.inr (Nat.not_le.mp byte))]
    exact if_pos (Nat.not_le.mp byte)

/-- An object of one element has no other element. -/
theorem no_other {s : State} {o : TableObject} {i : Nat} {P : Nat → Prop} (single : (Object.table o).elements s = 1)
    (inside : i < (Object.table o).elements s) : ∀ j, j < (Object.table o).elements s → j ≠ i → P j :=
  fun j less other => absurd other (by omega)

/-- The store of one element leaves every other (R116). -/
theorem store_framed (s : State) {o : TableObject} {i : Nat} {vs : List Word} {b b' : Bank}
    (inside : i < (Object.table o).elements s) (length : vs.length = (Object.table o).size i)
    (h : o.store i vs b = .ok b') : framed s o i b b' := by
  have single : (Object.table o).size i = 1 → ∃ w, vs = [w] := fun one =>
    List.length_eq_one_iff.mp (length.trans one)
  have double : (Object.table o).size i = 2 → ∃ v w, vs = [v, w] := fun two =>
    List.length_eq_two.mp (length.trans two)
  cases o with
  | classTable =>
    obtain ⟨w, rfl⟩ := single rfl
    obtain ⟨e, -, rfl⟩ := map_ok h
    refine framed_of (fun x n j _ => ?_) fun j _ other =>
      congrArg (fun e : ClassEntry => [e.value]) (elem_set_other _ other ..)
    cases x <;> simp [TableObject.read] at n ⊢
  | bandLimits =>
    obtain ⟨w, rfl⟩ := single rfl
    obtain ⟨v, -, rfl⟩ := map_ok h
    refine framed_of (fun x n j _ => ?_) fun j _ other => congrArg ([·]) (elem_set_other _ other ..)
    cases x <;> simp [TableObject.read] at n ⊢
  | edgeZone =>
    obtain ⟨w, rfl⟩ := single rfl
    obtain ⟨v, -, rfl⟩ := map_ok h
    refine framed_of (fun x n j _ => ?_) (no_other rfl inside)
    cases x <;> simp [TableObject.read] at n ⊢
  | ruleCount =>
    obtain ⟨w, rfl⟩ := single rfl
    obtain ⟨v, -, rfl⟩ := map_ok h
    refine framed_of (fun x n j _ => ?_) (no_other rfl inside)
    cases x <;> simp [TableObject.read] at n ⊢
  | ruleFields =>
    obtain ⟨r, stored, rfl⟩ := map_ok h
    obtain ⟨fields, items⟩ := storeField_frame stored
    exact ruleField_framed s b inside fields items
  | classLimits =>
    obtain ⟨l, -, rfl⟩ := map_ok h
    exact classLimit_framed s b inside l
  | outcomes =>
    obtain ⟨g, p, rfl⟩ := double rfl
    rw [store_outcome] at h
    obtain ⟨out, -, rfl⟩ := map_ok h
    refine framed_of (fun x n j _ => ?_) fun j _ other =>
      congrArg (fun o : ReservedOutcome => [val o.gate.val, valPattern o.pattern]) (elem_set_other _ other ..)
    cases x <;> simp [TableObject.read] at n ⊢
  | knots =>
    obtain ⟨w, rfl⟩ := single rfl
    obtain rfl := Except.ok.inj h
    refine framed_of (fun x n j _ => ?_) fun j _ other => congrArg ([·]) (elem_set_other _ other ..)
    cases x <;> simp [TableObject.read] at n ⊢
  | curve n =>
    obtain ⟨w, rfl⟩ := single rfl
    obtain ⟨v, -, rfl⟩ := map_ok h
    refine framed_of (fun x away j _ => ?_) fun j _ other => ?_
    · cases x
      case curve m =>
        exact congrArg (fun c : Vector Word 128 => [elem c j 0])
          (get_set_other _ (fun same => away (congrArg TableObject.curve same)) _)
      all_goals rfl
    · refine (congrArg (fun c : Vector Word 128 => [elem c j 0]) (get_set_self ..)).trans ?_
      exact congrArg ([·]) (elem_set_other _ other ..)
  | thresholds =>
    obtain ⟨w, rfl⟩ := single rfl
    obtain ⟨v, -, rfl⟩ := map_ok h
    refine framed_of (fun x n j _ => ?_) fun j _ other => congrArg ([·]) (elem_set_other _ other ..)
    cases x <;> simp [TableObject.read] at n ⊢
  | wetLimit =>
    obtain ⟨w, rfl⟩ := single rfl
    obtain ⟨v, -, rfl⟩ := map_ok h
    refine framed_of (fun x n j _ => ?_) (no_other rfl inside)
    cases x <;> simp [TableObject.read] at n ⊢
  | patterns =>
    obtain ⟨hi, lo, rfl⟩ := double rfl
    rw [store_pattern] at h
    obtain ⟨byte, -, rfl⟩ := map_ok h
    refine framed_of (fun x n j _ => ?_) fun j _ other =>
      congrArg (fun p : NozzleSet => [(p >>> 16).setWidth 16, p.setWidth 16]) (elem_set_other _ other ..)
    cases x <;> simp [TableObject.read] at n ⊢
  | rowCount =>
    obtain ⟨w, rfl⟩ := single rfl
    obtain ⟨v, -, rfl⟩ := map_ok h
    refine framed_of (fun x n j _ => ?_) (no_other rfl inside)
    cases x <;> simp [TableObject.read] at n ⊢

/-- Three bytes of a nozzle set stand in two values (12.3). -/
theorem nozzle_values {hi lo : Word} (byte : hi.toNat ≤ 0xFF) :
    (((hi.setWidth 8 ++ lo : NozzleSet) >>> 16).setWidth 16 : Word) = hi ∧
      ((hi.setWidth 8 ++ lo : NozzleSet).setWidth 16 : Word) = lo := by
  refine ⟨?_, low_append _ lo⟩
  refine BitVec.eq_of_toNat_eq ?_
  have low := lo.isLt
  simp only [BitVec.toNat_setWidth, BitVec.toNat_ushiftRight, BitVec.toNat_append, Nat.shiftRight_or_distrib]
  rw [Nat.shiftLeft_shiftRight, Nat.shiftRight_eq_div_pow lo.toNat, Nat.div_eq_of_lt low, Nat.or_zero]
  omega

/-- An element in range is stored whole and reads back; otherwise its first value out of range is told (R116, R188). -/
theorem store_judged (s : State) (o : TableObject) {i : Nat} (inside : i < (Object.table o).elements s) {vs : List Word}
    (length : vs.length = (Object.table o).size i) (b : Bank) :
    Judged 0 ((Object.table o).size i) (valueFits o i vs) (o.store i vs b) fun b' => o.read b' i = asRead o i vs := by
  have single : (Object.table o).size i = 1 → ∃ w, vs = [w] := fun one =>
    List.length_eq_one_iff.mp (length.trans one)
  have double : (Object.table o).size i = 2 → ∃ v w, vs = [v, w] := fun two =>
    List.length_eq_two.mp (length.trans two)
  cases o with
  | classTable =>
    obtain ⟨w, rfl⟩ := single rfl
    refine (classEntryOf_judged (by simp [valueFits])).map fun e same => ?_
    exact congrArg ([·]) ((congrArg ClassEntry.value (elem_set_self _ inside ..)).trans same)
  | bandLimits =>
    obtain ⟨w, rfl⟩ := single rfl
    refine (within_judged (by simp [valueFits])).map fun v ⟨same, _⟩ => ?_
    exact congrArg ([·]) ((elem_set_self _ inside ..).trans same)
  | edgeZone =>
    obtain ⟨w, rfl⟩ := single rfl
    exact (within_judged (by simp [valueFits])).map fun v ⟨same, _⟩ => congrArg ([·]) same
  | ruleCount =>
    obtain ⟨w, rfl⟩ := single rfl
    exact (below_judged (by simp [valueFits]; omega)).map fun v same => congrArg ([·]) same
  | ruleFields =>
    have rule : i / 9 < 8 := by have less : i < 72 := inside; omega
    have folded : valueFits .ruleFields i vs = valueFits .ruleFields (i % 9) vs := by
      funext j; simp only [valueFits, Nat.mod_mod]
    have size : (Object.table .ruleFields).size i = (Object.table .ruleFields).size (i % 9) := by
      simp only [Object.size, Nat.mod_mod]
    have reads : asRead .ruleFields i vs = asRead .ruleFields (i % 9) vs := by
      unfold asRead; simp only [Nat.mod_mod]
    rw [size] at length
    rw [folded, size, reads]
    refine (storeField_judged (b.ruleAt (i / 9)) (Nat.mod_lt i (by decide)) length).map fun r same => ?_
    exact (congrArg (fun x : Rule => x.field (i % 9)) (ruleAt_setRule b rule r)).trans same
  | classLimits =>
    have rule : i / 12 < 8 := by have less : i < 96 := inside; omega
    refine (classLimitOf_judged i length).map fun l same => ?_
    have stands := ruleAt_setRule b rule
      { b.ruleAt (i / 12) with items := (b.ruleAt (i / 12)).items.setIfInBounds (i % 12) l }
    refine (congrArg (fun x : Rule => (elem x.items (i % 12) ⟨0, none, none, none⟩).values) stands).trans ?_
    exact (congrArg ClassLimit.values (elem_set_self _ (Nat.mod_lt i (by decide)) ..)).trans same
  | outcomes =>
    obtain ⟨g, p, rfl⟩ := double rfl
    rw [store_outcome]
    have values : Judged 0 2 (valueFits .outcomes i [g, p])
        ((below 0 6 g).bind fun g => (patternOf 1 p).map (ReservedOutcome.mk g))
        fun o => [val o.gate.val, valPattern o.pattern] = [g, p] := by
      refine Judged.bind (m := 1) (len := 1) (below_judged (by simp [valueFits]; omega)) fun g' sameG => ?_
      refine (patternOf_judged (by simp [valueFits])).map fun p' sameP => ?_
      rw [sameG, sameP]
    refine values.map fun out same => ?_
    exact (congrArg (fun o : ReservedOutcome => [val o.gate.val, valPattern o.pattern])
      (elem_set_self _ inside ..)).trans same
  | knots =>
    obtain ⟨w, rfl⟩ := single rfl
    refine .one (fun _ => ⟨_, rfl, congrArg ([·]) (elem_set_self _ inside ..)⟩) fun k => by cases k
  | curve n =>
    obtain ⟨w, rfl⟩ := single rfl
    refine (within_judged (by simp [valueFits])).map fun v ⟨same, _⟩ => ?_
    refine (congrArg (fun c : Vector Word 128 => [elem c i 0]) (get_set_self ..)).trans ?_
    exact congrArg ([·]) ((elem_set_self _ inside ..).trans same)
  | thresholds =>
    obtain ⟨w, rfl⟩ := single rfl
    refine (within_judged (by simp [valueFits])).map fun v ⟨same, _⟩ => ?_
    exact congrArg ([·]) ((elem_set_self _ inside ..).trans same)
  | wetLimit =>
    obtain ⟨w, rfl⟩ := single rfl
    exact (within_judged (by simp [valueFits])).map fun v ⟨same, _⟩ => congrArg ([·]) same
  | patterns =>
    obtain ⟨hi, lo, rfl⟩ := double rfl
    have range : valueFits .patterns i [hi, lo] 0 = true ↔ 0 ≤ hi.toNat ∧ hi.toNat ≤ 0xFF := by simp [valueFits]
    have lower : ∀ j, 1 ≤ j → valueFits .patterns i [hi, lo] j = true := fun j some_ => by
      simp [valueFits, Nat.ne_of_gt some_]
    rw [store_pattern]
    refine ((within_judged range).unchecked (len := 1) lower).map fun v ⟨same, byte⟩ => ?_
    subst same
    obtain ⟨first, second⟩ := nozzle_values (lo := lo) byte
    refine (congrArg (fun p : NozzleSet => [(p >>> 16).setWidth 16, p.setWidth 16])
      (elem_set_self _ inside ..)).trans ?_
    rw [first, second]; rfl
  | rowCount =>
    obtain ⟨w, rfl⟩ := single rfl
    exact (below_judged (by simp [valueFits]; omega)).map fun v same => congrArg ([·]) same

end Sys2Proof.Machine
end

section
/-! A Write of a table object (R115, R116, R160, R162): the elements its values form, the store of all of them or none,
and the answer of the request row. -/
namespace Sys2Proof.Machine
open Sys2Proof.Safety

/-! ### The elements of a value list -/

/-- An element of a table object has a value. -/
theorem size_pos (o : TableObject) (i : Nat) : 0 < (Object.table o).size i := by
  cases o
  case ruleFields => unfold Object.size; dsimp only; split <;> decide
  all_goals exact Nat.succ_pos _

theorem elementValues_succ (o : TableObject) (i k : Nat) (vs : List Word) :
    elementValues o i (k + 1) vs = elementValues o (i + 1) k (vs.drop ((Object.table o).size i)) := by
  have next : i + (k + 1) = i + 1 + k := by omega
  unfold elementValues
  rw [valuesOf, List.drop_drop, next]

/-- The values of the first element, and those of the others. -/
theorem elements_split {o : TableObject} {n i : Nat} {vs : List Word}
    (whole : valuesOf (Object.table o).size (n + 1) i = vs.length) :
    (vs.take ((Object.table o).size i)).length = (Object.table o).size i ∧
      valuesOf (Object.table o).size n (i + 1) = (vs.drop ((Object.table o).size i)).length := by
  rw [valuesOf] at whole
  rw [List.length_take, List.length_drop]
  omega

/-- A value list is that of `n` elements exactly when it has as many values (R160). -/
theorem elementsFormed_iff {size : Nat → Nat} (some_ : ∀ i, 0 < size i) :
    ∀ (fuel i len n : Nat), len ≤ fuel → (elementsFormed size fuel i len = some n ↔ valuesOf size n i = len)
  | _, i, 0, 0, _ => by simp [elementsFormed, valuesOf]
  | _, i, 0, n + 1, _ => by
    have more := some_ i
    simp [elementsFormed, valuesOf]; omega
  | 0, _, _ + 1, _, h => absurd h (by omega)
  | fuel + 1, i, len + 1, 0, _ => by
    unfold elementsFormed
    split <;> simp [valuesOf]
  | fuel + 1, i, len + 1, n + 1, h => by
    have more := some_ i
    have rest := elementsFormed_iff some_ fuel (i + 1) (len + 1 - size i) n (by omega)
    unfold elementsFormed
    rw [valuesOf]
    by_cases fits : 0 < size i ∧ size i ≤ len + 1
    · rw [if_pos fits]
      simp only [Option.map_eq_some_iff, Nat.add_right_cancel_iff, exists_eq_right, rest]
      omega
    · rw [if_neg fits]
      simp only [reduceCtorEq, false_iff]
      omega

/-- The elements of a Write of a table object (R160). -/
theorem writeCount_table {s : State} {o : TableObject} {i n : Nat} {vs : List Word}
    (short : vs.length ≤ Config.valuesMax) : writeCount s (.table o) i vs = some n ↔
      1 ≤ n ∧ i + n ≤ (Object.table o).elements s ∧ valuesOf (Object.table o).size n i = vs.length := by
  have formed := elementsFormed_iff (size_pos o) vs.length i vs.length
  unfold writeCount
  rw [if_pos short]
  constructor
  · intro h
    split at h
    · next m some_ =>
      split at h
      · next inside =>
        obtain rfl := Option.some.inj h
        exact ⟨inside.1, inside.2, (formed m (le_refl _)).mp some_⟩
      · cases h
    · cases h
  · rintro ⟨least, inside, whole⟩
    rw [(formed n (le_refl _)).mpr whole]
    exact if_pos ⟨least, inside⟩

/-! ### All elements or none -/

/-- The elements from `i` on, `n` of them, read their values in `b'`; every other element reads as in `b` (R116). -/
structure StoredAll (s : State) (o : TableObject) (i n : Nat) (vs : List Word) (b b' : Bank) : Prop where
  reads : ∀ k < n, o.read b' (i + k) = asRead o (i + k) (elementValues o i k vs)
  others : ∀ (x : TableObject) (j : Nat), j < (Object.table x).elements s → x ≠ o ∨ j < i ∨ i + n ≤ j →
    x.read b' j = x.read b j

theorem storeAll_stores (s : State) (o : TableObject) : ∀ (n i pos : Nat) (vs : List Word) (b : Bank),
    i + n ≤ (Object.table o).elements s → valuesOf (Object.table o).size n i = vs.length →
    (∀ k j, k < n → j < (Object.table o).size (i + k) → valueFits o (i + k) (elementValues o i k vs) j = true) →
    ∃ b', storeAll (Object.table o).size o.store n i pos vs b = .ok b' ∧ StoredAll s o i n vs b b'
  | 0, _, _, _, b, _, _, _ => ⟨b, rfl, fun _ k => absurd k (Nat.not_lt_zero _), fun _ _ _ _ => rfl⟩
  | n + 1, i, pos, vs, b, inside, whole, fits => by
    obtain ⟨length, rest⟩ := elements_split whole
    have here : i < (Object.table o).elements s := by omega
    obtain ⟨c, stored, reads⟩ := (store_judged s o here length b).good fun j _ high => by
      have one := fits 0 j (Nat.succ_pos n)
      rw [Nat.zero_add] at high
      exact one high
    obtain ⟨b', storedAll, readsAll, othersAll⟩ := storeAll_stores s o n (i + 1) (pos + (Object.table o).size i)
      (vs.drop ((Object.table o).size i)) c (by omega) rest fun k j less high => by
        have one := fits (k + 1) j (Nat.succ_lt_succ less)
        have next : i + (k + 1) = i + 1 + k := by omega
        rw [elementValues_succ, next] at one
        exact one high
    have framed := store_framed s here length stored
    refine ⟨b', ?_, fun k less => ?_, fun x j valid other => ?_⟩
    · unfold storeAll
      rw [stored]; exact storedAll
    · cases k with
      | zero => exact (othersAll o i here (.inr (.inl (Nat.lt_succ_self i)))).trans reads
      | succ k =>
        have next : i + (k + 1) = i + 1 + k := by omega
        rw [elementValues_succ, next]
        exact readsAll k (Nat.lt_of_succ_lt_succ less)
    · rw [othersAll x j valid (other.imp_right fun away => by omega)]
      exact framed x j valid (other.imp_right fun away => by omega)

theorem storeAll_refuses (s : State) (o : TableObject) : ∀ (n i pos : Nat) (vs : List Word) (b : Bank) (k j : Nat),
    i + n ≤ (Object.table o).elements s → valuesOf (Object.table o).size n i = vs.length →
    k < n → j < (Object.table o).size (i + k) → valueFits o (i + k) (elementValues o i k vs) j = false →
    (∀ k' j', k' < n → j' < (Object.table o).size (i + k') → k' < k ∨ (k' = k ∧ j' < j) →
      valueFits o (i + k') (elementValues o i k' vs) j' = true) →
    storeAll (Object.table o).size o.store n i pos vs b = .error (pos + (valuesOf (Object.table o).size k i + j))
  | 0, _, _, _, _, _, _, _, _, less, _, _, _ => absurd less (Nat.not_lt_zero _)
  | n + 1, i, pos, vs, b, 0, j, inside, whole, _, high, out, first => by
    obtain ⟨length, -⟩ := elements_split whole
    have here : i < (Object.table o).elements s := by omega
    have refused := (store_judged s o here length b).bad j (Nat.zero_le _) (by rw [Nat.zero_add]; exact high) out
      fun j' _ less => first 0 j' (Nat.succ_pos n) (Nat.lt_trans less high) (.inr ⟨rfl, less⟩)
    unfold storeAll
    rw [refused, valuesOf, Nat.zero_add]
  | n + 1, i, pos, vs, b, k + 1, j, inside, whole, less, high, out, first => by
    obtain ⟨length, rest⟩ := elements_split whole
    have here : i < (Object.table o).elements s := by omega
    have next : ∀ k, i + (k + 1) = i + 1 + k := fun k => by omega
    obtain ⟨c, stored, -⟩ := (store_judged s o here length b).good fun j' _ high' =>
      first 0 j' (Nat.succ_pos n) (by rw [Nat.zero_add] at high'; exact high') (.inl (Nat.succ_pos k))
    rw [elementValues_succ, next] at out
    rw [next] at high
    have refused := storeAll_refuses s o n (i + 1) (pos + (Object.table o).size i)
      (vs.drop ((Object.table o).size i)) c k j (by omega) rest (Nat.lt_of_succ_lt_succ less) high out
      fun k' j' less' high' early => by
        have one := first (k' + 1) j' (Nat.succ_lt_succ less')
        rw [elementValues_succ, next] at one
        exact one high' (early.imp Nat.succ_lt_succ (And.imp_left (congrArg Nat.succ)))
    unfold storeAll
    rw [stored, valuesOf, Nat.add_assoc ((Object.table o).size i), ← Nat.add_assoc pos]
    exact refused

/-! ### The Write row -/

theorem writeRequest_table {code : Byte} {o : TableObject} (object : objectOf code = some (.table o)) {index : Word}
    {vs : List Word} {s : State} {n : Nat} (count : writeCount s (.table o) index.toNat vs = some n) :
    writeRequest code index vs s = writeTableObject o index.toNat n vs s := by
  unfold writeRequest; rw [object]; dsimp only; rw [count]

theorem writeRequest_tableIndex {code : Byte} {o : TableObject} (object : objectOf code = some (.table o))
    {index : Word} {vs : List Word} {s : State} (count : writeCount s (.table o) index.toNat vs = none) :
    writeRequest code index vs s = (s, some (.refuse .badIndex)) := by
  unfold writeRequest; rw [object]; dsimp only; rw [count]

theorem writeTableObject_busy {o : TableObject} {i n : Nat} {vs : List Word} {s : State} {a : Answer}
    (busy : tableBusy s = some a) : writeTableObject o i n vs s = (s, some a) := by
  unfold writeTableObject; rw [busy]

theorem writeTableObject_bad {o : TableObject} {i n : Nat} {vs : List Word} {s : State} {p : Nat}
    (free : tableBusy s = none)
    (refused : storeAll (Object.table o).size o.store n i 0 vs (s.tables.bank s.tables.other) = .error p) :
    writeTableObject o i n vs s = (s, some (.at .badValue p)) := by
  unfold writeTableObject; rw [free]; dsimp only; rw [refused]

theorem writeTableObject_stored {o : TableObject} {i n : Nat} {vs : List Word} {s : State} {b : Bank}
    (free : tableBusy s = none)
    (stored : storeAll (Object.table o).size o.store n i 0 vs (s.tables.bank s.tables.other) = .ok b) :
    writeTableObject o i n vs s = (s.setTables (s.tables.setBank s.tables.other b), some .done) := by
  unfold writeTableObject; rw [free]; dsimp only; rw [stored]

theorem exec_writeTable {h : ReqHeader} {s u : State} (t : takes h s) {code : Byte} {index : Word} {vs : List Word}
    {a : Answer} (act : writeRequest code index vs s = (u, some a)) :
    exec (.writeTable h code index vs) s = .next (answered h a s u) :=
  congrArg Host.Outcome.next (takeRequest_answer t act)

/-- A Write of `n` whole elements within the object is the store of those elements (R160). -/
theorem exec_writeElements {h : ReqHeader} {s u : State} (t : takes h s) {code : Byte} {o : TableObject}
    (object : objectOf code = some (.table o)) {index : Word} {vs : List Word} (short : vs.length ≤ Config.valuesMax)
    {n : Nat} (least : 1 ≤ n) (inside : index.toNat + n ≤ (Object.table o).elements s)
    (whole : valuesOf (Object.table o).size n index.toNat = vs.length) {a : Answer}
    (act : writeTableObject o index.toNat n vs s = (u, some a)) :
    exec (.writeTable h code index vs) s = .next (answered h a s u) :=
  exec_writeTable t ((writeRequest_table object ((writeCount_table short).mpr ⟨least, inside, whole⟩)).trans act)

/-- One value of an object of one value. -/
theorem writeTable_one {h : ReqHeader} {s : State} (t : takes h s) (free : tableBusy s = none) {code : Byte}
    {o : TableObject} (object : objectOf code = some (.table o)) (one : (Object.table o).size = fun _ => 1)
    (single : (Object.table o).elements s = 1) {v : Word} {b : Bank}
    (stored : o.store 0 [v] (s.tables.bank s.tables.other) = .ok b) :
    ∃ t, exec (.writeTable h code 0 [v]) s = .next t ∧ t.tables = s.tables.setBank s.tables.other b := by
  have count : writeCount s (.table o) (0 : Word).toNat [v] = some 1 :=
    writeCount_one (congrFun one 0) (by rw [single]; rfl)
  have all : storeAll (Object.table o).size o.store 1 0 0 [v] (s.tables.bank s.tables.other) = .ok b := by
    rw [one, storeAll_one, stored]
  exact ⟨_, exec_writeTable t ((writeRequest_table object count).trans (writeTableObject_stored free all)),
    (answered_only ..).tables rfl⟩

/-- Settles O48: the elements formed, the store busy, and all elements stored or none. -/
theorem tableWriteIsWhole : Obligations.TableWriteIsWhole := by
  refine ⟨fun s h code o index values t object short => ⟨fun none_ => ?_, fun n least inside whole => ?_⟩,
    fun s h v t free => ⟨fun range => ?_, fun n same => ?_, fun range => ?_⟩⟩
  · have count : writeCount s (.table o) index.toNat values = none := by
      refine Option.eq_none_iff_forall_ne_some.mpr fun n k => ?_
      obtain ⟨least, inside, whole⟩ := (writeCount_table short).mp k
      exact none_ n least inside whole
    exact exec_writeTable t (writeRequest_tableIndex object count)
  · refine ⟨fun copying => ?_, fun still taken => ?_, fun free => ⟨fun k j less high out first => ?_, fun fits => ?_⟩⟩
    · exact exec_writeElements t object short least inside whole (writeTableObject_busy (if_pos copying))
    · have busy : tableBusy s = some (.refuse .bankBusy) := by
        unfold tableBusy
        rw [still, if_neg Bool.false_ne_true]
        exact if_pos (by simpa using taken)
      exact exec_writeElements t object short least inside whole (writeTableObject_busy busy)
    · have refused := storeAll_refuses s o n index.toNat 0 values (s.tables.bank s.tables.other) k j inside whole less
        high out first
      rw [Nat.zero_add] at refused
      exact exec_writeElements t object short least inside whole (writeTableObject_bad free refused)
    · obtain ⟨b, stored, reads, others⟩ := storeAll_stores s o n index.toNat 0 values
        (s.tables.bank s.tables.other) inside whole fits
      exact ⟨b, exec_writeElements t object short least inside whole (writeTableObject_stored free stored), reads,
        others⟩
  · exact writeTable_one (o := .edgeZone) t free rfl rfl rfl
      (congrArg (Except.map _) (within_in (Nat.zero_le _) range))
  · have value : below 0 9 v = .ok n := (dif_pos (same ▸ n.isLt)).trans (congrArg Except.ok (Fin.ext same))
    exact writeTable_one (o := .ruleCount) t free rfl rfl rfl (congrArg (Except.map _) value)
  · exact writeTable_one (o := .wetLimit) t free rfl rfl rfl
      (congrArg (Except.map _) (within_in (Nat.zero_le _) range))

end Sys2Proof.Machine
end

section
/-! Corrected values, sizes and means (R60, R61, R81, R82, R84): interpolation between two values, the interval of a reading,
and the rows of Table 5-3. -/
namespace Sys2Proof.Machine

/-! ### Interpolation (R81, R82) -/

/-- A part `num / den` of a difference, rounded down, lies between 0 and the difference. -/
theorem part_of_rise {d num den : Int} (rise : 0 ≤ d) (low : 0 ≤ num) (high : num < den) :
    0 ≤ d * num / den ∧ d * num / den ≤ d :=
  ⟨Int.ediv_nonneg (mul_nonneg rise low) (by omega),
    Int.ediv_le_of_le_mul (by omega) (mul_le_mul_of_nonneg_left high.le rise)⟩

theorem part_of_fall {d num den : Int} (fall : d ≤ 0) (low : 0 ≤ num) (high : num < den) :
    d ≤ d * num / den ∧ d * num / den ≤ 0 :=
  ⟨(Int.le_ediv_iff_mul_le (by omega)).mpr (mul_le_mul_of_nonpos_left high.le fall),
    Int.ediv_nonpos_of_nonpos_of_neg (mul_nonpos_of_nonpos_of_nonneg fall low) (by omega)⟩

/-- Up to the higher end of its interval an interpolated value is the linear one rounded down, and it lies between the two
values it is drawn from. -/
theorem interpolate_between (a b : Nat) {num den : Nat} (inside : num < den) :
    (interpolate a b num den : Int) = a + ((b : Int) - a) * num / den ∧
    min a b ≤ interpolate a b num den ∧ interpolate a b num den ≤ max a b := by
  have low : (0 : Int) ≤ num := Int.natCast_nonneg num
  have high : (num : Int) < den := Int.ofNat_lt.mpr inside
  unfold interpolate
  rcases le_total a b with rise | fall
  · have part := part_of_rise (d := (b : Int) - a) (by omega) low high
    omega
  · have part := part_of_fall (d := (b : Int) - a) (by omega) low high
    omega

/-- At the lower end of its interval it is the lower value. -/
theorem interpolate_zero (a b den : Nat) : interpolate a b 0 den = a := by simp [interpolate]

/-- Interpolation at a place of an interval, both measured from one origin. -/
theorem interpolate_inside (a b : Nat) {lo x hi : Nat} (least : lo ≤ x) (less : x < hi) :
    (interpolate a b (x - lo) (hi - lo) : Int) = a + ((b : Int) - a) * ((x : Int) - lo) / ((hi : Int) - lo) ∧
    min a b ≤ interpolate a b (x - lo) (hi - lo) ∧ interpolate a b (x - lo) (hi - lo) ≤ max a b := by
  have between := interpolate_between a b (num := x - lo) (den := hi - lo) (by omega)
  rwa [Int.ofNat_sub least, Int.ofNat_sub (by omega)] at between

/-! ### The knot interval of a reading (R81) -/

/-- The knots rise strictly (R81). -/
def Bank.knotsRise (b : Bank) : Prop := ∀ i < 7, b.knot i < b.knot (i + 1)

theorem Bank.knotsRise.lt {b : Bank} (rise : b.knotsRise) {i : Nat} : ∀ {j : Nat}, i < j → j ≤ 7 → b.knot i < b.knot j
  | j + 1, less, last => by
    have next := rise j (by omega)
    rcases Nat.lt_succ_iff_lt_or_eq.mp less with before | rfl
    · exact (rise.lt before (by omega)).trans next
    · exact next

theorem Bank.knotsRise.le {b : Bank} (rise : b.knotsRise) {i j : Nat} (less : i ≤ j) (last : j ≤ 7) :
    b.knot i ≤ b.knot j :=
  (Nat.eq_or_lt_of_le less).elim (fun same => same ▸ le_rfl) fun less => (rise.lt less last).le

/-- A reading from one knot up to the next has the lower one's index. -/
theorem Bank.knotIndex_eq {b : Bank} (rise : b.knotsRise) {i r : Nat} (inside : i < 7) (least : b.knot i ≤ r)
    (less : r < b.knot (i + 1)) : b.knotIndex r = i := by
  have split : List.range 7 = List.range (i + 1) ++ (List.range (6 - i)).map (i + 1 + ·) := by
    rw [← List.range_add]; congr 1; omega
  have lower : (List.range (i + 1)).filter (fun j => b.knot j ≤ r) = List.range (i + 1) :=
    List.filter_eq_self.mpr fun j m => by
      have := rise.le (Nat.lt_succ_iff.mp (List.mem_range.mp m)) inside.le
      simp only [decide_eq_true_eq]; omega
  have upper : ((List.range (6 - i)).map (i + 1 + ·)).filter (fun j => b.knot j ≤ r) = [] :=
    List.filter_eq_nil_iff.mpr fun j m => by
      obtain ⟨k, k_lt, rfl⟩ := List.mem_map.mp m
      have := rise.le (i := i + 1) (j := i + 1 + k) (by omega) (by have := List.mem_range.mp k_lt; omega)
      simp only [decide_eq_true_eq]; omega
  unfold Bank.knotIndex
  rw [split, List.filter_append, lower, upper, List.append_nil, List.range_succ, List.getLastD_concat]

/-! ### The value of a curve (R81) -/

theorem Bank.curveValue_low {b : Bank} {r : Nat} (low : r ≤ b.knot 0) (curve : Fin 3) (lane : Lane) :
    b.curveValue curve lane r = b.knotValue curve lane 0 := if_pos low

theorem Bank.curveValue_high {b : Bank} (rise : b.knotsRise) {r : Nat} (high : b.knot 7 ≤ r) (curve : Fin 3)
    (lane : Lane) : b.curveValue curve lane r = b.knotValue curve lane 7 := by
  have above : ¬ r ≤ b.knot 0 := by have := rise.lt (i := 0) (j := 7) (by omega) le_rfl; omega
  unfold Bank.curveValue
  rw [if_neg above, if_pos high]

/-- Between two knots the value is interpolated, also at K0, where it is clamped as well. -/
theorem Bank.curveValue_between {b : Bank} (rise : b.knotsRise) {i r : Nat} (inside : i < 7) (least : b.knot i ≤ r)
    (less : r < b.knot (i + 1)) (curve : Fin 3) (lane : Lane) : b.curveValue curve lane r =
      interpolate (b.knotValue curve lane i) (b.knotValue curve lane (i + 1)) (r - b.knot i)
        (b.knot (i + 1) - b.knot i) := by
  by_cases low : r ≤ b.knot 0
  · have first : i = 0 := Nat.eq_zero_of_not_pos fun pos => by
      have := rise.lt pos inside.le
      omega
    subst first
    rw [curveValue_low low, Nat.sub_eq_zero_of_le low, interpolate_zero]
  · have below : ¬ b.knot 7 ≤ r := by have := rise.le (i := i + 1) (j := 7) inside le_rfl; omega
    unfold Bank.curveValue
    rw [if_neg low, if_neg below, knotIndex_eq rise inside least less]

theorem Bank.curveValue_knot {b : Bank} (rise : b.knotsRise) {i : Nat} (inside : i < 7) (curve : Fin 3) (lane : Lane) :
    b.curveValue curve lane (b.knot i) = b.knotValue curve lane i := by
  rw [curveValue_between rise inside le_rfl (rise i inside), Nat.sub_self, interpolate_zero]

/-! ### The rows of Table 5-3 (R82) -/

section
variable (b : Bank) (lane : Lane) (r : Nat) {t : Nat}

theorem Bank.corrected_first (row : t ≤ (b.thresholds.get 0).toNat) : b.corrected lane r t = b.curveValue 0 lane r :=
  if_pos row

theorem Bank.corrected_lowBlend (above : (b.thresholds.get 0).toNat < t) (row : t < (b.thresholds.get 1).toNat) :
    b.corrected lane r t = interpolate (b.curveValue 0 lane r) (b.curveValue 1 lane r)
      (t - (b.thresholds.get 0).toNat) ((b.thresholds.get 1).toNat - (b.thresholds.get 0).toNat) := by
  unfold Bank.corrected; dsimp only
  rw [if_neg above.not_ge, if_pos row]

theorem Bank.corrected_second (above : (b.thresholds.get 0).toNat < t) (past : (b.thresholds.get 1).toNat ≤ t)
    (row : t ≤ (b.thresholds.get 2).toNat) : b.corrected lane r t = b.curveValue 1 lane r := by
  unfold Bank.corrected; dsimp only
  rw [if_neg above.not_ge, if_neg past.not_gt, if_pos row]

theorem Bank.corrected_highBlend (above : (b.thresholds.get 0).toNat < t) (past : (b.thresholds.get 1).toNat ≤ t)
    (hot : (b.thresholds.get 2).toNat < t) (row : t < (b.thresholds.get 3).toNat) :
    b.corrected lane r t = interpolate (b.curveValue 1 lane r) (b.curveValue 2 lane r)
      (t - (b.thresholds.get 2).toNat) ((b.thresholds.get 3).toNat - (b.thresholds.get 2).toNat) := by
  unfold Bank.corrected; dsimp only
  rw [if_neg above.not_ge, if_neg past.not_gt, if_neg hot.not_ge, if_pos row]

theorem Bank.corrected_third (above : (b.thresholds.get 0).toNat < t) (past : (b.thresholds.get 1).toNat ≤ t)
    (hot : (b.thresholds.get 2).toNat < t) (row : (b.thresholds.get 3).toNat ≤ t) :
    b.corrected lane r t = b.curveValue 2 lane r := by
  unfold Bank.corrected; dsimp only
  rw [if_neg above.not_ge, if_neg past.not_gt, if_neg hot.not_ge, if_neg row.not_gt]

end

/-! ### Features and means (R60, R61, R84) -/

/-- Limits that rise strictly cut the sizes into four bands, each limit in the band above it (R60). -/
theorem sizeBand_iff {limits : Vector Word 3} (size : Nat) (low : (limits.get 0).toNat < (limits.get 1).toNat)
    (high : (limits.get 1).toNat < (limits.get 2).toNat) :
    (sizeBand limits size = 0 ↔ size < (limits.get 0).toNat) ∧
    (sizeBand limits size = 1 ↔ (limits.get 0).toNat ≤ size ∧ size < (limits.get 1).toNat) ∧
    (sizeBand limits size = 2 ↔ (limits.get 1).toNat ≤ size ∧ size < (limits.get 2).toNat) ∧
    (sizeBand limits size = 3 ↔ (limits.get 2).toNat ≤ size) := by
  unfold sizeBand
  split
  · simp; omega
  split
  · simp; omega
  split
  · simp; omega
  · simp; omega

/-- Settles O26: interpolation on the knots and by temperature, and the measures of a feature and a summary. -/
theorem measuresOfSamplesAndFeatures : Obligations.MeasuresOfSamplesAndFeatures := by
  refine ⟨fun b curve lane r rise => ⟨fun low => b.curveValue_low low curve lane,
      fun high => b.curveValue_high rise high curve lane, fun i inside least less => ?_⟩,
    fun _ _ => rfl, fun along across => ?_, fun limits size => sizeBand_iff size,
    fun m => ⟨fun none_ => if_pos none_, fun some_ => if_neg some_.ne'⟩,
    fun b lane r t t1 t2 t3 t4 v e1 e2 e3 e4 values => ?_⟩
  · have between := interpolate_inside (b.knotValue curve lane i) (b.knotValue curve lane (i + 1)) least less
    rw [← b.curveValue_between rise inside least less curve lane] at between
    obtain ⟨linear, low, high⟩ := between
    exact ⟨linear, low, high, fun knot => knot ▸ b.curveValue_knot rise inside curve lane⟩
  · unfold featureArea
    omega
  · subst e1 e2 e3 e4
    simp only [values]
    refine ⟨fun row => ?_, fun above row => ?_, fun above past row => ?_, fun above past hot row => ?_,
      fun above past hot row => ?_⟩
    · rw [b.corrected_first lane r row]
    · rw [b.corrected_lowBlend lane r above row]
      exact mod_cast interpolate_inside (b.curveValue 0 lane r) (b.curveValue 1 lane r) above.le row
    · rw [b.corrected_second lane r above past row]
    · rw [b.corrected_highBlend lane r above past hot row]
      exact mod_cast interpolate_inside (b.curveValue 1 lane r) (b.curveValue 2 lane r) hot.le row
    · rw [b.corrected_third lane r above past hot row]

end Sys2Proof.Machine
end

section
/-! A MOIST taken (R79, R80, R83): its sample corrected and added to the summary of its entry. -/
namespace Sys2Proof.Machine
open Sys2Proof.Safety

/-- The entry with a corrected value added to its summary (R83). -/
def Entry.summarised (wetLimit v : Nat) (e : Entry) : Entry := { e with moisture := e.moisture.add wetLimit v }

/-- A value at the Wet Limit is not wet, and the wet count stops at 65535 (R83). -/
theorem MoistureSummary.add_wet (m : MoistureSummary) (wetLimit v : Nat) :
    (m.add wetLimit v).wet = if wetLimit < v ∧ m.wet < 65535 then m.wet + 1 else m.wet :=
  (ite_and ..).symm

/-- A MOIST taken for an entry is a change of that entry's summary alone. -/
theorem takeMoist_attributed {lane : Lane} {s : State} {e : Entry} (d : tagsDistinct s)
    (attributed : attributedTo lane s = some e) (raw temperature : Word) : takeMoist lane raw temperature s =
      modifyEntry e.tag (Entry.summarised (s.tables.bank e.bank).wetLimit.toNat
        ((s.tables.bank e.bank).corrected lane raw.toNat temperature.toNat)) s := by
  have found : findEntry e.tag s = some e := findEntry_self d (attributedTo_some attributed).1
  unfold takeMoist summariseSample
  rw [attributed]
  exact withEntry_some found

theorem entryBecomes_modifyEntry {tag : Tag} {f g : Entry → Entry} (same : ∀ e, f e = g e) (s : State) :
    entryBecomes tag g s (modifyEntry tag f s) := by
  obtain rfl : f = g := funext same
  rfl

/-- Settles O25: the entry becomes itself with the sample in its summary, field by field. -/
theorem moistIsSummarised : Obligations.MoistIsSummarised := by
  intro s e lane raw temperature taken d ok attributed
  have row : traffic s (.moist s.scan.deckValue lane raw temperature) = some (s.scan.deckValue, true) :=
    congrArg (fun b => some (s.scan.deckValue, b)) ok
  have summary := takeMoist_attributed (s := armSilence s) d attributed raw temperature
  have run := (exec_accepted taken row).trans (congrArg Host.Outcome.next summary)
  refine ⟨_, _, run, rfl, entryBecomes_modifyEntry (fun x => ?_) (armSilence s), rfl⟩
  exact congrArg (fun m => { x with moisture := m })
    ((MoistureSummary.mk.injEq ..).mpr ⟨satInc_eq .., rfl, rfl, x.moisture.add_wet ..⟩)

end Sys2Proof.Machine
end

section
/-! The end of LOADING (R87, R88, R178, R183, R184): the judgement of the Option Block, what is taken from it, and the
records that announce the start. -/
namespace Sys2Proof.Machine
open Sys2Proof.Safety

/-! ### The judgement (R88, R183) -/

theorem any_toList_iff {α : Type} {n : Nat} {v : Vector α n} {p : α → Bool} :
    v.toList.any p = true ↔ ∃ i : Fin n, p (v.get i) = true := by
  rw [← not_iff_not, Bool.not_eq_true, List.any_eq_false, forall_mem_toList (P := fun x => ¬ p x = true), not_exists]

theorem optionFails_iff (o : OptionBlock) : optionFails o = true ↔ o.checkAgrees = false ∨ o.station = 63 := by
  simp [optionFails]

theorem presetUnfit_iff (o : OptionBlock) : presetUnfit o = true ↔
    (∃ i : Fin 7, (o.knots.get i.succ).toNat ≤ (o.knots.get i.castSucc).toNat) ∨
      ∃ (c : Fin 3) (i : Fin 128), 999 < ((o.curves.get c).get i).toNat := by
  have knots : (!risesStrictly (o.knots.toList.map (·.toNat))) = true ↔
      ∃ i : Fin 7, (o.knots.get i.succ).toNat ≤ (o.knots.get i.castSucc).toNat := by
    rw [Bool.not_eq_true', ← Bool.not_eq_true, risesStrictly_iff, isChain_toNat]
    simp
  unfold presetUnfit
  rw [Bool.or_eq_true, knots, any_toList_iff]
  simp only [any_toList_iff, decide_eq_true_eq]

theorem optionFaulted_iff (o : OptionBlock) : optionFaulted o = true ↔
    (o.checkAgrees = false ∨ o.station = 63 ∨
      (∃ i : Fin 7, (o.knots.get i.succ).toNat ≤ (o.knots.get i.castSucc).toNat) ∨
      ∃ (c : Fin 3) (i : Fin 128), 999 < ((o.curves.get c).get i).toNat) := by
  rw [optionFaulted, Bool.or_eq_true, optionFails_iff, presetUnfit_iff, or_assoc]

/-! ### What is taken from the Option Block (R87, R88, R183) -/

theorem takeOptions_failed {o : OptionBlock} (fails : o.checkAgrees = false ∨ o.station = 63) (a : Agent) :
    takeOptions o a = { a with station := 0, groupResponder := false, protect := false } :=
  if_pos ((optionFails_iff o).mpr fails)

theorem takeOptions_sound {o : OptionBlock} (agrees : o.checkAgrees = true) (own : o.station ≠ 63) (a : Agent) :
    takeOptions o a = { a with station := o.station, groupResponder := o.groupResponder, protect := o.protect } :=
  if_neg fun fails => by simp_all [optionFails_iff]

theorem applyPreset_power (o : OptionBlock) (t : TableStore) (id : BankId) :
    (applyPreset o .power t).bank id = (t.bank id).withPreset o := by cases id <;> rfl

theorem applyPreset_other (o : OptionBlock) {cause : Cause} (other : cause ≠ .power) (t : TableStore) :
    applyPreset o cause t = t := by
  cases cause
  case power => exact absurd rfl other
  case pin | command => rfl

theorem withPreset_thresholds (b : Bank) (o : OptionBlock) (i : Fin 4) : (b.withPreset o).thresholds.get i = 0 := by
  simp [Bank.withPreset, Vector.get_eq_getElem]

section
variable (o : OptionBlock) (levels : Pins) (s : State)

theorem takeOptionBlock_agent :
    (takeOptionBlock o levels s).agent = { takeOptions o s.agent with mode := .standby } := by
  unfold takeOptionBlock; split <;> rfl

theorem takeOptionBlock_tables :
    (takeOptionBlock o levels s).tables = applyPreset o s.attention.startup.cause s.tables := by
  unfold takeOptionBlock; split <;> rfl

theorem takeOptionBlock_startup :
    (takeOptionBlock o levels s).attention.startup = { s.attention.startup with optionFaulted := optionFaulted o } := by
  unfold takeOptionBlock; split <;> rfl

theorem takeOptionBlock_link : (takeOptionBlock o levels s).link = s.link := by
  unfold takeOptionBlock; split <;> rfl

theorem takeOptionBlock_position : (takeOptionBlock o levels s).position = s.position := by
  unfold takeOptionBlock; split <;> rfl

theorem takeOptionBlock_optionFault :
    flagSet (takeOptionBlock o levels s) .optionFault = (optionFaulted o || flagSet s .optionFault) := by
  cases faulted : optionFaulted o with
  | true =>
    have raised : flagSet (takeOptionBlock o levels s) .optionFault = flagSet (setFlag .optionFault s) .optionFault := by
      unfold takeOptionBlock flagSet; rw [if_pos faulted]
    rw [raised, flagSet_setFlag]; rfl
  | false =>
    unfold takeOptionBlock flagSet; rw [if_neg (by simp [faulted])]; rfl

end

/-! ### The records that announce the start (R134, R178, R184) -/

theorem roomForOffered_empty {s : State} (empty : s.link = ⟨[], none⟩) : roomForOffered s = true := by
  unfold roomForOffered; rw [empty]; rfl

/-- The head of an idle link with READY high begins sending. -/
theorem offer_link_begins {s : State} (r : OutRecord) (empty : s.link = ⟨[], none⟩) (ready : s.pins.ready = true) :
    (offer r s).link = ⟨[], some r⟩ := by
  have begins : tryBegin (enqueue r s) = routeSent r ((enqueue r s).setLink ⟨[], some r⟩) := by
    simp [tryBegin, enqueue, empty, ready]
  unfold offer place
  rw [if_pos (roomForOffered_empty empty), begins, (routeSent_only ..).link.resolve_left (Part.unnamed rfl)]
  rfl

/-- A record offered with room, while READY is low or another is in sending, waits at the tail. -/
theorem offer_link_waits {s : State} (r : OutRecord) (room : roomForOffered s = true)
    (held : s.pins.ready = false ∨ s.link.sending ≠ none) :
    (offer r s).link = ⟨s.link.queue ++ [r], s.link.sending⟩ := by
  unfold offer; rw [if_pos room]
  refine (place_link r s).resolve_right ?_
  rintro ⟨-, -, ready, idle, -⟩
  exact held.elim (fun low => by rw [ready] at low; cases low) fun sending => sending idle

/-- What stands behind the START record: the ALERT record held back by R178, or nothing. -/
def heldAlert (held : Bool) (s : State) : List OutRecord :=
  if held then [.alert .optionFault s.position.belt] else []

/-- On an empty link the START record comes first, in sending where READY is high, and the ALERT record held back waits
behind it. -/
theorem announce_link {s : State} (held : Bool) (empty : s.link = ⟨[], none⟩) : (announce held s).link =
    if s.pins.ready then ⟨heldAlert held s, some (.start s.attention.startup)⟩
    else ⟨.start s.attention.startup :: heldAlert held s, none⟩ := by
  obtain ⟨t, offered⟩ : ∃ t, t = offer (.start s.attention.startup) s := ⟨_, rfl⟩
  have pins : t.pins = s.pins := offered ▸ (offer_only ..).pins.resolve_left (Part.unnamed rfl)
  have first : t.link = if s.pins.ready then ⟨[], some (.start s.attention.startup)⟩
      else ⟨[.start s.attention.startup], none⟩ := by
    rw [offered]
    cases ready : s.pins.ready with
    | true => exact offer_link_begins _ empty ready
    | false => rw [offer_link_waits _ (roomForOffered_empty empty) (.inl ready), empty]; rfl
  unfold announce
  rw [← offered]
  cases held with
  | false => exact first
  | true =>
    refine (offer_link_waits (s := t) _ ?_ ?_).trans ?_
    · unfold roomForOffered
      rw [first]
      cases s.pins.ready <;> rfl
    · rw [pins, first]
      cases s.pins.ready
      · exact .inl rfl
      · exact .inr (Option.some_ne_none _)
    · rw [first]
      cases s.pins.ready <;> rfl

/-- The records offered change no flag but OUT_DROPPED. -/
theorem announce_flagSet (held : Bool) (s : State) {f : Flag} (other : f ≠ .outDropped) :
    flagSet (announce held s) f = flagSet s f := by
  have keeps : ∀ (r : OutRecord) (u : State), flagSet (offer r u) f = flagSet u f := fun r u =>
    (flagSet_offer r u f).resolve_right fun dropped => other dropped.1
  unfold announce; dsimp only; split
  · rw [keeps, keeps]
  · rw [keeps]

/-! ### The end of LOADING -/

theorem endLoading_programmed {s : State} (loading : s.agent.mode = .loading) (o : OptionBlock) (levels : Pins) :
    endLoading (some o) levels s =
      announce (optionFaulted o && !flagSet s .optionFault && maskSet s .optionFault) (takeOptionBlock o levels s) :=
  if_pos loading

/-- Settles O60: the Option Block judged and taken, then the records of the start. -/
theorem loadingEndsInStandby : Obligations.LoadingEndsInStandby := by
  refine ⟨fun _ _ => rfl, fun s o levels loading empty => ?_⟩
  obtain ⟨held, heldEq⟩ : ∃ h, h = (optionFaulted o && !flagSet s .optionFault && maskSet s .optionFault) := ⟨_, rfl⟩
  obtain ⟨u, read⟩ : ∃ u, u = takeOptionBlock o levels s := ⟨_, rfl⟩
  have agent : u.agent = { takeOptions o s.agent with mode := .standby } := read ▸ takeOptionBlock_agent ..
  have tables : u.tables = applyPreset o s.attention.startup.cause s.tables := read ▸ takeOptionBlock_tables ..
  have startup : u.attention.startup = { s.attention.startup with optionFaulted := optionFaulted o } :=
    read ▸ takeOptionBlock_startup ..
  have position : u.position = s.position := read ▸ takeOptionBlock_position ..
  have ready : u.pins = levels := read ▸ rfl
  have link : u.link = ⟨[], none⟩ := (read ▸ takeOptionBlock_link o levels s).trans empty
  have parts := announce_only held u
  obtain ⟨station, responder, protect⟩ := parts.options.resolve_left (Part.unnamed rfl)
  have banks : (announce held u).tables = u.tables := parts.tables rfl
  have begun : (announce held u).attention.startup = u.attention.startup :=
    parts.startup.resolve_left (Part.unnamed rfl)
  have sent := announce_link held link
  rw [← begun, ready] at sent
  refine ⟨announce held u, optionFaulted o, ?_, optionFaulted_iff o, ?_, ?_, ?_, ?_, begun.trans startup, ?_,
    fun fails => ?_, fun agrees own => ?_, fun power id => ?_, fun warm => ?_, heldAlert held u, ?_,
    fun high => ?_, fun low => ?_⟩
  · rw [heldEq, read]
    exact congrArg Host.Outcome.next (endLoading_programmed loading o levels)
  · rw [parts.mode.resolve_left (Part.unnamed rfl), agent]
  · rw [parts.scan.resolve_left (Part.unnamed rfl), read]; rfl
  · rw [parts.pins.resolve_left (Part.unnamed rfl), ready]
  · rw [parts.optionBlock.resolve_left (Part.unnamed rfl), read]; rfl
  · rw [announce_flagSet held u (by decide), read, takeOptionBlock_optionFault]
  · rw [station, responder, protect, agent, takeOptions_failed fails]
    exact ⟨rfl, rfl, rfl⟩
  · rw [station, responder, protect, agent, takeOptions_sound agrees own]
    exact ⟨rfl, rfl, rfl⟩
  · rw [banks, tables, power, applyPreset_power]
    exact ⟨rfl, rfl, rfl, withPreset_thresholds _ o⟩
  · rw [banks, tables, applyPreset_other o warm]
  · unfold heldAlert
    rw [position, heldEq]
    simp only [Bool.and_eq_true, Bool.not_eq_true', and_assoc]
  · rw [sent, if_pos high]
  · rw [sent, if_neg (by simp [low])]

end Sys2Proof.Machine
end

section
/-! The evaluation of an entry (R94 to R98): what each test of a rule asks, and the first rule in use that passes all. -/
namespace Sys2Proof.Machine

/-! ### The tests of a rule (R95 to R98) -/

/-- A limit asks for its test only where it is present (R94). -/
theorem limitOk_iff {limit : Option Word} {test : Nat → Bool} :
    limitOk limit test = true ↔ ∀ m, limit = some m → test m.toNat = true := by
  cases limit with
  | none => simp [limitOk]
  | some w => simp [limitOk]

section
variable (r : Rule) (e : Entry)

theorem Rule.lengthOk_iff :
    r.lengthOk e = true ↔ ∀ m, r.minLength = some m → m.toNat ≤ (e.length.getD 0).toNat := by
  simp only [Rule.lengthOk, limitOk_iff, decide_eq_true_eq]

theorem Rule.lanesOk_iff :
    r.lanesOk e = true ↔ ∀ m, r.minLanes = some m → m.toNat + e.first.toNat ≤ e.last.toNat + 1 := by
  simp only [Rule.lanesOk, limitOk_iff, decide_eq_true_eq]

/-- A sheet without samples fails the moisture test, whatever its maximum (R96). -/
theorem Rule.moistureOk_iff : r.moistureOk e = true ↔
    ∀ m, r.moistMax = some m → 0 < e.moisture.count ∧ ∃ x, e.moisture.maximum = some x ∧ x ≤ m.toNat := by
  unfold Rule.moistureOk
  cases e.moisture.maximum with
  | none => simp [limitOk_iff]
  | some x => simp [limitOk_iff]

theorem Rule.wetOk_iff : r.wetOk e = true ↔ ∀ m, r.wetMax = some m → e.moisture.wet ≤ m.toNat := by
  simp only [Rule.wetOk, limitOk_iff, decide_eq_true_eq]

theorem ClassLimit.ok_iff (l : ClassLimit) : l.ok e = true ↔
    (∀ m, l.countMax = some m → (e.tally.get l.cls).count ≤ m.toNat) ∧
    (∀ m, l.sizeMax = some m → (e.tally.get l.cls).largest ≤ m.toNat) ∧
    (∀ m, l.areaMax = some m → (e.tally.get l.cls).area ≤ m.toNat) := by
  simp only [ClassLimit.ok, Bool.and_eq_true, limitOk_iff, decide_eq_true_eq, and_assoc]

theorem mem_allClasses : ∀ k, k ∈ allClasses := by decide

/-- The unlisted-class test is made under REFUSE alone, and there of every class (R98). -/
theorem Rule.unlistedOk_iff : r.unlistedOk e = true ↔
    (r.policy = .refuse → ∀ k, (∃ l ∈ r.limits, l.cls = k) ∨ (e.tally.get k).count = 0) := by
  unfold Rule.unlistedOk
  cases r.policy with
  | allow => simp
  | refuse => simp [mem_allClasses]

/-- A rule is satisfied when its six tests pass (R94). -/
theorem Rule.satisfied_iff : r.satisfied e = true ↔ r.lengthOk e = true ∧ r.lanesOk e = true ∧ r.moistureOk e = true ∧
    r.wetOk e = true ∧ (∀ l ∈ r.limits, l.ok e = true) ∧ r.unlistedOk e = true := by
  simp only [Rule.satisfied, Bool.and_eq_true, List.all_eq_true, and_assoc]

end

/-! ### The first satisfied rule (R94) -/

section
variable {b : Bank} {e : Entry}

/-- The rules are tried in the order of their numbers. -/
theorem Bank.satisfiedRule_eq_find? (b : Bank) (e : Entry) :
    b.satisfiedRule e = Fin.find? fun n => n.val < b.ruleCount.val && (b.rules.get n).satisfied e := by
  have order : allRules = List.finRange 8 := by decide
  rw [Fin.find?_eq_find?_finRange, ← order]
  rfl

/-- A rule below one in use is in use, so that it was tried before and failed. -/
theorem Bank.satisfiedRule_eq_some {n : Fin 8} : b.satisfiedRule e = some n ↔
    n.val < b.ruleCount.val ∧ (b.rules.get n).satisfied e = true ∧
      ∀ m : Fin 8, m < n → (b.rules.get m).satisfied e = false := by
  rw [b.satisfiedRule_eq_find? e, Fin.find?_eq_some_iff, Bool.and_eq_true, decide_eq_true_eq, and_assoc]
  refine and_congr_right fun used => and_congr_right fun _ => forall₂_congr fun m below => ?_
  have used' : m.val < b.ruleCount.val := (Fin.lt_def.mp below).trans used
  rw [decide_eq_true used', Bool.true_and]

theorem Bank.evaluate_rule {n : Fin 8} (first : b.satisfiedRule e = some n) : b.evaluate e = .rule n := by
  rw [Bank.evaluate, first]

theorem Bank.evaluate_fallback (none_ : b.satisfiedRule e = none) : b.evaluate e = .fallback := by
  rw [Bank.evaluate, none_]

end

/-- Settles O43: the search of the rules in their order, the grade of its result, and the tests of a rule one by one. -/
theorem firstSatisfiedRuleDecides : Obligations.FirstSatisfiedRuleDecides := by
  refine ⟨fun b e n => Bank.satisfiedRule_eq_some, fun b e =>
    ⟨fun n first => ⟨Bank.evaluate_rule first, rfl⟩, Bank.evaluate_fallback, rfl⟩, fun r e => ?_⟩
  simp only [r.satisfied_iff, r.lengthOk_iff, r.lanesOk_iff, r.moistureOk_iff, r.wetOk_iff, ClassLimit.ok_iff,
    r.unlistedOk_iff, Rule.limits]

end Sys2Proof.Machine
end

section
/-! The holder counts and the RETIRING state through every command (R113, R114): what `holdsKept` looks at is the tag,
bank and hold of each entry and the Table Store, and each operation that ends, begins or moves a hold keeps them true. -/
namespace Sys2Proof.Machine
open Sys2Proof.Safety

/-! ### Counting holds -/

/-- Tag, bank and hold of an entry, as `holdingsOf` lists them. -/
abbrev Holding := Tag × BankId × Bool

/-- Number of holds on a bank (R113). -/
def heldBy (id : BankId) (l : List Holding) : Nat := l.countP fun h => h.2.2 && h.2.1 = id

/-- The end of an entry's hold, on the list. -/
def unhold (tag : Tag) (h : Holding) : Holding := if h.1 = tag then (h.1, h.2.1, false) else h

/-- An ended hold counts as little as the hold of an entry that is gone. -/
theorem heldBy_unhold (id : BankId) (tag : Tag) (l : List Holding) :
    heldBy id (l.map (unhold tag)) = heldBy id (l.filter fun h => h.1 ≠ tag) := by
  unfold heldBy
  rw [List.countP_map, List.countP_filter]
  refine List.countP_congr fun h _ => ?_
  by_cases own : h.1 = tag <;> simp [unhold, own]

/-- With distinct tags the holds without one entry are those of the others (R49). -/
theorem heldBy_without (id : BankId) {tag : Tag} {b : BankId} {held : Bool} : ∀ {l : List Holding},
    (l.map (·.1)).Nodup → (tag, b, held) ∈ l →
    heldBy id l = heldBy id (l.filter fun h => h.1 ≠ tag) + if held && b = id then 1 else 0
  | a :: l, nodup, m => by
    obtain ⟨fresh, nodup⟩ := List.nodup_cons.mp nodup
    rcases List.mem_cons.mp m with rfl | m
    · have others : l.filter (fun h => h.1 ≠ tag) = l := List.filter_eq_self.mpr fun h mh => by
        have other : h.1 ≠ tag := fun same => fresh (List.mem_map.mpr ⟨h, mh, same⟩)
        simpa using other
      rw [List.filter_cons_of_neg (by simp), others]
      exact List.countP_cons ..
    · have other : a.1 ≠ tag := fun same => fresh (List.mem_map.mpr ⟨_, m, same.symm⟩)
      have rest := heldBy_without id nodup m
      unfold heldBy at rest ⊢
      rw [List.filter_cons_of_pos (by simpa using other), List.countP_cons, List.countP_cons, rest]
      omega

/-! ### What `holdsKept` looks at -/

/-- The holder counts are the holds of the list, and the other bank is RETIRING exactly while it is held (R113, R114). -/
structure HoldsTrue (l : List Holding) (t : TableStore) : Prop where
  counts : ∀ id, t.holders id = heldBy id l
  retiring : t.otherState = .retiring ↔ 0 < t.holders t.other

theorem tagsOf_holdings (s : State) : tagsOf s = (holdingsOf s).map (·.1) := by simp [tagsOf, holdingsOf]

theorem holdersOf_holdings (id : BankId) (s : State) : holdersOf id s = heldBy id (holdingsOf s) := by
  unfold holdersOf heldBy holdingsOf
  rw [List.countP_map, List.countP_eq_length_filter]; rfl

theorem holdsKept_iff (s : State) :
    holdsKept s ↔ ((holdingsOf s).map (·.1)).Nodup ∧ HoldsTrue (holdingsOf s) s.tables := by
  unfold holdsKept tagsDistinct
  rw [tagsOf_holdings, holdersOf_holdings, holdersOf_holdings]
  constructor
  · rintro ⟨nodup, zero, one, retiring⟩
    exact ⟨nodup, by rintro (_ | _) <;> assumption, retiring⟩
  · rintro ⟨nodup, counts, retiring⟩
    exact ⟨nodup, counts .bank0, counts .bank1, retiring⟩

theorem holders_congr {t u : TableStore} (zero : u.holders0 = t.holders0) (one : u.holders1 = t.holders1)
    (id : BankId) : u.holders id = t.holders id := by cases id <;> assumption

theorem HoldsTrue.congr {l : List Holding} {t u : TableStore} (active : u.active = t.active)
    (other : u.otherState = t.otherState) (zero : u.holders0 = t.holders0) (one : u.holders1 = t.holders1)
    (h : HoldsTrue l t) : HoldsTrue l u := by
  refine ⟨fun id => (holders_congr zero one id).trans (h.counts id), ?_⟩
  rw [other, holders_congr zero one, TableStore.other, active]
  exact h.retiring

/-- An operation that names no hold and not the ACTIVE bank keeps the holds. -/
theorem Only.holdsKept {W : List Part} {s t : State} (k : Only W s t)
    (sub : (([.holdings, .holds, .active] : List Part).all fun p => !W.contains p) = true) (h : holdsKept s) :
    holdsKept t := by
  simp only [List.all_cons, List.all_nil, Bool.and_true, Bool.and_eq_true, Bool.not_eq_true'] at sub
  obtain ⟨holdings, holds, active⟩ := sub
  obtain ⟨zero, one, other⟩ := k.holds.resolve_left (Part.unnamed holds)
  rw [holdsKept_iff] at h ⊢
  rw [k.holdings.resolve_left (Part.unnamed holdings)]
  exact ⟨h.1, h.2.congr (k.active.resolve_left (Part.unnamed active)).1 other zero one⟩

/-- With no entry, no hold counted and the other bank STAGING the holds are true. -/
theorem holdsKept_empty {s : State} (sheets : s.tracker.sheets = []) (zero : s.tables.holders0 = 0)
    (one : s.tables.holders1 = 0) (other : s.tables.otherState = .staging) : holdsKept s := by
  have none_ : s.tables.holders s.tables.other = 0 := by cases s.tables.other <;> assumption
  simp [Safety.holdsKept, tagsDistinct, tagsOf, holdersOf, sheets, zero, one, other, none_]

/-! ### The operations on holds -/

theorem holders_setHolders (t : TableStore) (id x : BankId) (n : Nat) :
    (t.setHolders id n).holders x = if x = id then n else t.holders x := by
  cases id <;> cases x <;> rfl

theorem setHolders_other (t : TableStore) (id : BankId) (n : Nat) :
    (t.setHolders id n).other = t.other ∧ (t.setHolders id n).active = t.active ∧
      (t.setHolders id n).otherState = t.otherState := by cases id <;> exact ⟨rfl, rfl, rfl⟩

theorem other_ne_active (t : TableStore) : t.other ≠ t.active := by
  unfold TableStore.other
  cases t.active <;> decide

/-- A RETIRING bank that is no longer held is released; nothing else in the Table Store changes (R114). -/
theorem releaseBank_holdsTrue (c : Ctx) {s : State} {l : List Holding}
    (counts : ∀ id, s.tables.holders id = heldBy id l)
    (held : 0 < s.tables.holders s.tables.other → s.tables.otherState = .retiring) :
    HoldsTrue l (releaseBank c s).tables := by
  rcases releaseBank_cases c s with ⟨-, free, k⟩ | ⟨stays, k⟩ <;> rw [k]
  · rw [raise_tables]
    have none_ : TableStore.holders { s.tables with otherState := .staging } s.tables.other = 0 :=
      (holders_congr rfl rfl _).trans free
    exact ⟨fun id => (holders_congr rfl rfl id).trans (counts id), (nomatch ·),
      fun held => absurd none_ held.ne'⟩
  · exact ⟨counts, fun retiring => Nat.pos_of_ne_zero fun free => stays ⟨retiring, free⟩, held⟩

/-- The end of one hold, of one that is counted still, makes the counts true (R113, R114). -/
theorem releaseHold_holdsTrue (c : Ctx) (b : BankId) {s : State} {l : List Holding}
    (counts : ∀ id, s.tables.holders id = heldBy id l + if b = id then 1 else 0)
    (retiring : s.tables.otherState = .retiring ↔ 0 < s.tables.holders s.tables.other) :
    HoldsTrue l (releaseHold c b s).tables := by
  obtain ⟨u, counted⟩ : ∃ u, u = s.setTables (s.tables.setHolders b (s.tables.holders b - 1)) := ⟨_, rfl⟩
  obtain ⟨other, active, state⟩ := setHolders_other s.tables b (s.tables.holders b - 1)
  have tables : u.tables = s.tables.setHolders b (s.tables.holders b - 1) := by rw [counted]; rfl
  have ended : ∀ id, u.tables.holders id = heldBy id l := fun id => by
    rw [tables, holders_setHolders]
    have := counts id
    split
    · next same => subst same; rw [this, if_pos rfl]; omega
    · next n => rw [this, if_neg (Ne.symm n)]; omega
  have run : releaseHold c b s = if b = u.tables.active then u else releaseBank c u := by rw [counted]; rfl
  have less : u.tables.holders u.tables.other ≤ s.tables.holders s.tables.other := by
    rw [ended, counts, tables, other]; omega
  rw [run]
  split
  · next own =>
    refine ⟨ended, ?_⟩
    have same : u.tables.holders u.tables.other = s.tables.holders s.tables.other := by
      rw [tables, active] at own
      rw [tables, other, holders_setHolders, if_neg fun k => other_ne_active s.tables (k.trans own)]
    rw [same, tables, state]; exact retiring
  · refine releaseBank_holdsTrue c ended fun held => ?_
    rw [tables, state]; exact retiring.mpr (held.trans_le less)

/-- A hold on the ACTIVE bank begins, with its count (R35, R113). -/
theorem HoldsTrue.begin {l : List Holding} {t : TableStore} (tag : Tag) (h : HoldsTrue l t) :
    HoldsTrue (l ++ [(tag, t.active, true)]) (t.setHolders t.active (t.holders t.active + 1)) := by
  obtain ⟨other, active, state⟩ := setHolders_other t t.active (t.holders t.active + 1)
  refine ⟨fun id => ?_, ?_⟩
  · have one : heldBy id [(tag, t.active, true)] = if id = t.active then 1 else 0 := by
      simp [heldBy, List.countP_cons, eq_comm]
    have sum : heldBy id (l ++ [(tag, t.active, true)]) = heldBy id l + heldBy id [(tag, t.active, true)] :=
      List.countP_append ..
    rw [sum, one, ← h.counts, holders_setHolders]
    split
    · next same => rw [same]
    · rfl
  · rw [state, other, holders_setHolders, if_neg (other_ne_active t)]
    exact h.retiring

/-- The bank that was ACTIVE is RETIRING after a commit exactly while it is held (R120). -/
theorem HoldsTrue.committed {l : List Holding} {t u : TableStore} (active : u.active = t.other)
    (state : u.otherState = if 0 < t.holders t.active then .retiring else .staging)
    (zero : u.holders0 = t.holders0) (one : u.holders1 = t.holders1) (h : HoldsTrue l t) : HoldsTrue l u := by
  have back : u.other = t.active := by
    unfold TableStore.other; rw [active, TableStore.other]; cases t.active <;> rfl
  refine ⟨fun id => (holders_congr zero one id).trans (h.counts id), ?_⟩
  rw [state, back, holders_congr zero one]
  simp

theorem releaseBank_holdsKept (c : Ctx) {s : State} (h : holdsKept s) : holdsKept (releaseBank c s) := by
  rcases releaseBank_cases c s with ⟨retiring, free, -⟩ | ⟨-, k⟩
  · exact absurd free (((holdsKept_iff s).mp h).2.retiring.mp retiring).ne'
  · rw [k]; exact h

theorem commitEffect_holdsKept (c : Ctx) {s : State} (h : holdsKept s) : holdsKept (commitEffect c s) := by
  rw [holdsKept_iff] at h ⊢
  rw [(commitEffect_only c s).holdings.resolve_left (Part.unnamed rfl), commitEffect_tables]
  exact ⟨h.1, h.2.committed rfl rfl rfl rfl⟩

theorem commitIfPending_holdsKept (c : Ctx) {s : State} (h : holdsKept s) : holdsKept (commitIfPending c s) := by
  unfold commitIfPending; split
  · exact commitEffect_holdsKept c h
  · exact h

/-! ### An entry stops holding, leaves, or joins -/

theorem mem_holdingsOf {tag : Tag} {s : State} {e : Entry} (found : findEntry tag s = some e) :
    (tag, e.bank, e.holding) ∈ holdingsOf s := by
  obtain ⟨m, rfl⟩ := Stable.findEntry_mem found
  exact List.mem_map_of_mem m

theorem holdingsOf_unhold (tag : Tag) (s : State) :
    holdingsOf (modifyEntry tag (fun e => { e with holding := false }) s) = (holdingsOf s).map (unhold tag) := by
  simp only [holdingsOf, modifyEntry, State.setTracker_tracker, List.map_map]
  refine List.map_congr_left fun e _ => ?_
  by_cases own : e.tag = tag <;> simp [unhold, own]

theorem map_unhold_tags (tag : Tag) (l : List Holding) : (l.map (unhold tag)).map (·.1) = l.map (·.1) := by
  rw [List.map_map]
  refine List.map_congr_left fun h _ => ?_
  simp only [Function.comp, unhold]; split <;> rfl

/-- An entry that stops holding its bank takes one hold off its count (R49, R113). -/
theorem endHold_holdsKept (c : Ctx) (tag : Tag) {s : State} (h : holdsKept s) : holdsKept (endHold c tag s) := by
  refine Stable.entry h fun e found => ?_
  split
  · next ends =>
    obtain ⟨nodup, counts, retiring⟩ := (holdsKept_iff s).mp h
    have holding : e.holding = true := (Bool.and_eq_true_iff.mp ends).1
    have m := mem_holdingsOf found
    rw [holding] at m
    rw [holdsKept_iff, (releaseHold_only c e.bank _).holdings.resolve_left (Part.unnamed rfl), holdingsOf_unhold,
      map_unhold_tags]
    refine ⟨nodup, releaseHold_holdsTrue c e.bank (fun id => ?_) retiring⟩
    rw [heldBy_unhold]
    exact (counts id).trans (by simpa using heldBy_without id nodup m)
  · exact h

/-- The holds once an entry has left the queue (R50). -/
theorem removeEntry_holdings (tag : Tag) (s : State) :
    holdingsOf (removeEntry tag s) = (holdingsOf s).filter fun h => h.1 ≠ tag := by
  simp [holdingsOf, removeEntry, disarmTag, unlist, List.filter_map, Function.comp_def]

/-- A retiring entry that holds its bank still ends that hold (R50, R113). -/
theorem retired_holdsKept (c : Ctx) (e : Entry) {s : State} (held : (e.tag, e.bank, e.holding) ∈ holdingsOf s)
    (h : holdsKept s) : holdsKept (abandonEvaluation e.tag
      (let u := markerRetired e.tag (routeRetired c e (removeEntry e.tag s))
       if e.holding then releaseHold c e.bank u else u)) := by
  obtain ⟨nodup, counts, retiring⟩ := (holdsKept_iff s).mp h
  obtain ⟨u, left⟩ : ∃ u, u = markerRetired e.tag (routeRetired c e (removeEntry e.tag s)) := ⟨_, rfl⟩
  have told : Only (.marker :: raiseParts) (removeEntry e.tag s) u :=
    left ▸ .via (markerRetired_only ..) rfl (.via (routeRetired_only ..) rfl (.refl ..))
  have tables : u.tables = s.tables := (told.tables rfl).trans ((removeEntry_only e.tag s).tables rfl)
  have holdings : holdingsOf u = (holdingsOf s).filter fun h => h.1 ≠ e.tag :=
    (told.holdings.resolve_left (Part.unnamed rfl)).trans (removeEntry_holdings ..)
  have distinct : ((holdingsOf u).map (·.1)).Nodup := by
    rw [holdings]; exact (List.filter_sublist.map _).nodup nodup
  have counted : ∀ id, u.tables.holders id = heldBy id (holdingsOf u) + if e.holding && e.bank = id then 1 else 0 :=
    fun id => by rw [tables, holdings, counts]; exact heldBy_without id nodup held
  rw [← left]
  refine (abandonEvaluation_only ..).holdsKept rfl ?_
  dsimp only; split
  · next holding =>
    simp only [holding, Bool.true_and, decide_eq_true_eq] at counted
    rw [holdsKept_iff, (releaseHold_only c e.bank u).holdings.resolve_left (Part.unnamed rfl)]
    exact ⟨distinct, releaseHold_holdsTrue c e.bank counted (tables ▸ retiring)⟩
  · next free =>
    simp only [free, Bool.false_and, Bool.false_eq_true, if_false, Nat.add_zero] at counted
    exact (holdsKept_iff u).mpr ⟨distinct, counted, tables ▸ retiring⟩

/-- A new entry, of a fresh tag, holds the ACTIVE bank, whose count rises by one (R35, R113). -/
theorem openEntry_holdsKept (c : Ctx) (p : Position) (first last : Lane) {s : State}
    (room : s.tracker.sheets.length < Config.sheetQueueMax) (h : holdsKept s) :
    holdsKept (openEntry c p first last s) := by
  obtain ⟨u, committed⟩ : ∃ u, u = commitIfPending c s := ⟨_, rfl⟩
  have tags : tagsOf u = tagsOf s := committed ▸ commitIfPending_tags c s
  have room : u.tracker.sheets.length < Config.sheetQueueMax := by
    have same := congrArg List.length tags
    simp only [tagsOf, List.length_map] at same
    omega
  obtain ⟨nodup, holds⟩ := (holdsKept_iff u).mp (committed ▸ commitIfPending_holdsKept c h)
  rw [openEntry_eq, ← committed]
  refine (arm_only ..).holdsKept rfl ((arm_only ..).holdsKept rfl ((holdsKept_iff _).mpr ?_))
  have holdings : ∀ v : TableStore, holdingsOf ((u.setTracker { u.tracker with
      sheets := u.tracker.sheets ++ [nextEntry p first last u],
      tagCounter := (nextEntry p first last u).tag + 1 }).setTables v) =
        holdingsOf u ++ [(nextTag u, u.tables.active, true)] := fun v => by
    simp [holdingsOf, nextEntry, newEntry]
  rw [holdings, State.setTables_tables]
  refine ⟨?_, holds.begin (nextTag u)⟩
  have fresh : nextTag u ∉ (holdingsOf u).map (·.1) := tagsOf_holdings u ▸ (nextTag_fresh room).1
  rw [List.map_append]
  refine List.nodup_append.mpr ⟨nodup, List.nodup_singleton _, ?_⟩
  rintro a used b mb rfl
  obtain rfl : a = nextTag u := List.mem_singleton.mp mb
  exact fresh used

/-- After a flush nothing is held (R127). -/
theorem flush_holdsKept (c : Ctx) (s : State) : holdsKept (setMode .standby (flush c s)) := by
  obtain ⟨zero, one, other, -⟩ := flushTables_tables c (dropped s)
  have tables : (flush c s).tables = (flushTables c (dropped s)).tables := (flush_afterTables c s).tables rfl
  rw [← tables] at zero one other
  exact holdsKept_empty (flush_sheets c s) zero one other

/-! ### Every step -/

theorem stable_holdsKept : Stable holdsKept where
  other k := k.holdsKept rfl
  modify _ f s keeps := (modifyEntry_only _ f s keeps).holdsKept rfl
  offered r s := (offer_only r s).holdsKept rfl
  begun s := (tryBegin_only s).holdsKept rfl
  withdrawn tag s := (withdraw_only tag s).holdsKept rfl
  fired tag w s := (firePoint_only tag w s).holdsKept rfl
  completed b s := (completeSending_only b s).holdsKept rfl
  pinsKept p s _ := (setPins_only s p).holdsKept rfl
  pinsRead p s := (sampleLevels_only p s).holdsKept rfl
  bankReleased c _ := releaseBank_holdsKept c
  holdEnded c tag _ := endHold_holdsKept c tag
  committed c _ := commitEffect_holdsKept c
  unlisted tag s := (unlist_only tag s).holdsKept rfl
  listed _ s _ := (setEvaluator_only s _).holdsKept rfl
  started s := (startEvaluation_only s).holdsKept rfl
  idled s := (evaluatorIdle_only s).holdsKept rfl
  stampSet v s _ := (setMarker_only s v).holdsKept rfl
  spanSet _ s _ := (setBlind_only s _).holdsKept rfl
  intervalSet v s _ := (setInterval_only s v).holdsKept rfl
  spanCleared s h := (intervalEnds_only _).holdsKept rfl ((setBlind_only s none).holdsKept rfl h)
  moded m s _ _ := (setMode_only m s).holdsKept rfl
  standby s _ _ := (setMode_only .standby s).holdsKept rfl
  testEnded _ h := h
  testHeld _ _ _ h := h
  opened c p f l _ _ room := openEntry_holdsKept c p f l room
  retired c e _ found := by
    obtain ⟨x, found, bank, holding⟩ := found
    exact retired_holdsKept c e (bank ▸ holding ▸ mem_holdingsOf found)
  flushed c s _ := flush_holdsKept c s

theorem resetStable_holdsKept : ResetStable holdsKept where
  reset r s _ := by
    obtain ⟨-, -, other, zero, one, -⟩ := warmReset_tables s.draws s.tables
    exact holdsKept_empty (s := warmReset r s) rfl zero one other
  power s _ := holdsKept_empty (s := powerOn s) rfl rfl rfl rfl

/-- Settles O13: a hold begins and ends with its count, and the other bank is RETIRING from a commit that finds it held
to the end of its last hold. -/
theorem stepKeepsTheHolds : Obligations.StepKeepsTheHolds := by
  intro s t h run
  exact stable_holdsKept.step resetStable_holdsKept run (fun o p u _ => (endLoading_only o p u).holdsKept rfl) h

end Sys2Proof.Machine
end

section
/-! What each command leaves of the Table Store: the items of the banks, the ACTIVE bank, and the other bank's state with
the holder counts (R112 to R115, R120 to R124, R129). -/
namespace Sys2Proof.Machine
open Sys2Proof.Safety

/-! ### The items of the two banks -/

theorem bank_setBank (t : TableStore) (id x : BankId) (b : Bank) :
    (t.setBank id b).bank x = if x = id then b else t.bank x := by
  cases id <;> cases x <;> rfl

/-- A change of the STAGING bank leaves the ACTIVE one (R112). -/
theorem bank_setBank_other (t : TableStore) (b : Bank) : (t.setBank t.other b).bank t.active = t.bank t.active := by
  rw [bank_setBank, if_neg (other_ne_active t).symm]

theorem eq_active_of_ne_other {t : TableStore} {id : BankId} (h : id ≠ t.other) : id = t.active := by
  unfold TableStore.other at h
  cases active : t.active <;> cases id <;> simp_all [BankId.other]

theorem bank_congr {t u : TableStore} (zero : u.bank0 = t.bank0) (one : u.bank1 = t.bank1) (id : BankId) :
    u.bank id = t.bank id := by cases id <;> assumption

/-- What may write into the STAGING bank leaves the ACTIVE bank, and without a Copy in flight both (R112, R122, R124). -/
def copiesAtMost (t u : TableStore) : Prop :=
  u.bank t.active = t.bank t.active ∧ (t.copyInFlight = false → u.bank0 = t.bank0 ∧ u.bank1 = t.bank1)

theorem copiesAtMost_refl (t : TableStore) : copiesAtMost t t := ⟨rfl, fun _ => ⟨rfl, rfl⟩⟩

/-- A Read finds what a Copy in flight has written (R123, log 8). -/
theorem copyProgress_copies (s : State) : copiesAtMost s.tables (copyProgress s).tables := by
  unfold copyProgress; split
  · next flying => exact ⟨bank_setBank_other .., fun still => by rw [still] at flying; cases flying⟩
  · exact copiesAtMost_refl _

/-- A warm reset keeps both banks, but for what a Copy it cuts has written (R124, R129). -/
theorem warmReset_copies (n : Nat) (t : TableStore) : copiesAtMost t (t.warmReset n) := by
  cases flying : t.copyInFlight with
  | true =>
    have run : t.warmReset n = { t.setBank t.other (partlyCopied n t) with
        otherState := .staging, holders0 := 0, holders1 := 0, commitPending := false, copyInFlight := false } := by
      unfold TableStore.warmReset; rw [if_pos flying]
    rw [run]
    exact ⟨(bank_congr rfl rfl _).trans (bank_setBank_other ..), fun still => by rw [flying] at still; cases still⟩
  | false =>
    have run : t.warmReset n = { t with
        otherState := .staging, holders0 := 0, holders1 := 0, commitPending := false, copyInFlight := false } := by
      unfold TableStore.warmReset; rw [if_neg (by simp [flying])]
    rw [run]
    exact ⟨bank_congr rfl rfl _, fun _ => ⟨rfl, rfl⟩⟩

theorem pinReset_tables (s : State) : (pinReset s).tables = s.tables.warmReset s.draws := by
  unfold pinReset; split <;> rfl

/-- A Write of a table object stores in the STAGING bank (R112, R115). -/
theorem writeTableObject_active (o : TableObject) (i n : Nat) (vs : List Word) (s : State) :
    (writeTableObject o i n vs s).1.tables.bank s.tables.active = s.tables.bank s.tables.active := by
  unfold writeTableObject; split
  · rfl
  · split
    · rfl
    · exact bank_setBank_other ..

theorem writeRequest_active (o : Byte) (i : Word) (vs : List Word) (s : State) :
    (writeRequest o i vs s).1.tables.bank s.tables.active = s.tables.bank s.tables.active := by
  have apart : ∀ {W : List Part} {u : State}, Only W s u → W.contains .banks = false →
      u.tables.bank s.tables.active = s.tables.bank s.tables.active := fun k no => by
    obtain ⟨zero, one⟩ := k.banks.resolve_left (Part.unnamed no)
    exact bank_congr zero one _
  have parts := writeRequest_only o i vs s
  cases object : objectOf o with
  | none => rw [object] at parts; exact apart parts rfl
  | some x =>
    rw [object] at parts
    cases x with
    | standby x => exact apart parts rfl
    | live x => exact apart parts rfl
    | status x => exact apart parts rfl
    | table x =>
      cases count : writeCount s (.table x) i.toNat vs with
      | none => rw [writeRequest_tableIndex object count]
      | some n => rw [writeRequest_table object count]; exact writeTableObject_active ..

/-- The Table Store once a Copy has completed: the STAGING bank equals the ACTIVE one (R123). -/
def TableStore.copied (t : TableStore) : TableStore :=
  { t.setBank t.other (t.bank t.active) with copyInFlight := false }

theorem copied_bank (t : TableStore) (id : BankId) : t.copied.bank id = t.bank t.active := by
  have set : t.copied.bank id = (t.setBank t.other (t.bank t.active)).bank id := bank_congr rfl rfl id
  rw [set, bank_setBank]
  split
  · rfl
  · next own => rw [eq_active_of_ne_other own]

/-- A completing Copy writes the STAGING bank alone (R123). -/
theorem completeCopy_active (s : State) :
    (completeCopy s).tables.bank s.tables.active = s.tables.bank s.tables.active := by
  have copied := copied_bank s.tables s.tables.active
  unfold completeCopy; split
  · dsimp only; split
    · split
      · rw [(offer_only ..).tables rfl]; exact copied
      · exact copied
    · exact copied
  · rfl

/-! ### Requests -/

theorem startMark_tables (s : State) : (startMark s).tables = s.tables := (startMark_only s).tables rfl

/-- Neither the start mark of a request nor its REPLY touches the Table Store. -/
theorem takeRequest_tables (h : ReqHeader) (act : State → State × Option Answer) (s : State) :
    (takeRequest h act s).tables = s.tables ∨ (takeRequest h act s).tables = (act (startMark s)).1.tables := by
  unfold takeRequest; dsimp only
  split
  · exact .inl (startMark_tables s)
  · split
    · refine .inr ?_
      split
      · split
        · exact (offer_only ..).tables rfl
        · rfl
      · rfl
    · exact .inl (startMark_tables s)

/-- What a request does to the Table Store is what its act does, where it is taken. -/
theorem takeRequest_tables_of {P : TableStore → TableStore → Prop} (refl : ∀ t, P t t) {h : ReqHeader}
    {act : State → State × Option Answer} (acted : ∀ u, P u.tables (act u).1.tables) (s : State) :
    P s.tables (takeRequest h act s).tables := by
  rcases takeRequest_tables h act s with k | k <;> rw [k]
  · exact refl _
  · rw [← startMark_tables s]; exact acted _

/-! ### Records that end no hold -/

/-- A FEATURE ends no hold, whatever it decides (R39, R71). -/
theorem takeFeature_leaves (lane : Lane) (k : BitVec 5) (a w : Word) (o : Byte) (p : Position) (s : State) :
    Only (.evaluator :: raiseParts) s (takeFeature lane k a w o p s) := by
  unfold takeFeature; split
  · exact .via (classifyFeature_only ..) rfl (.refl ..)
  · exact .via (unattributed_only _) rfl (.refl ..)

/-- With distinct tags, marking every OPEN entry changes entries alone (R47, R48). -/
theorem markAll_isOpen_only (c : Ctx) (own : EntryFlags → EntryFlags) {s : State} (d : tagsDistinct s) :
    Only [.entries] s (markAll c own (tagsWhere Entry.isOpen s) s) := by
  have opened : ∀ tag ∈ tagsWhere Entry.isOpen s, ∃ e, findEntry tag s = some e ∧ e.isOpen = true := by
    intro tag m
    obtain ⟨e, me, isOpen, rfl⟩ := mem_tagsWhere.mp m
    exact ⟨e, findEntry_self d me, isOpen⟩
  rw [markAll_open _ _ opened]
  exact only_foldl (fun s tag => modifyEntry_only tag (Entry.marked own) s fun _ => ⟨rfl, rfl, rfl⟩) _ _

/-- With distinct tags a gap in the frame numbers marks OPEN entries, which decides none (R14, R47, R48). -/
theorem numberFrame_leaves (n : Word) {s : State} (d : tagsDistinct s) :
    Only (.scan :: raiseParts) s (numberFrame n s) := by
  unfold numberFrame; dsimp only
  refine Only.seq (V := [.scan]) ?_ (setScan_only _ _ rfl) rfl
  split
  · exact Only.refl ..
  · split
    · exact Only.refl ..
    · have raised := raise_only (Ctx.now s) .frameGap s
      have distinct : tagsDistinct (raise (Ctx.now s) .frameGap s) := by
        unfold tagsDistinct; rw [raised.tagsKept rfl]; exact d
      exact .via (markAll_isOpen_only _ _ distinct) rfl (raised.mono rfl)

theorem frameRecordTaken_leaves (deck : BitVec 1) (n : Word) {s : State} (d : tagsDistinct s) :
    Only (.rejected :: .scan :: raiseParts) s (frameRecordTaken deck n s) := by
  have start : Only (.rejected :: .scan :: raiseParts) s (startMark s) := (startMark_only s).mono rfl
  have stamped := start.trans ((armSilence_only (startMark s)).mono rfl)
  have distinct : tagsDistinct (armSilence (startMark s)) := by
    unfold tagsDistinct; rw [stamped.tagsKept rfl]; exact d
  unfold frameRecordTaken
  rcases takeTraffic_cases deck true (fun _ => numberFrame n) s with k | ⟨no, -⟩ | ⟨-, k⟩
  · rw [k]; exact start
  · cases no
  · rw [k]; exact stamped.trans ((numberFrame_leaves n distinct).mono rfl)

theorem featureRecordTaken_leaves (deck : BitVec 1) (lane : Lane) (k : BitVec 5) (a w : Word) (o : Byte) (s : State) :
    Only (.rejected :: .scan :: .evaluator :: raiseParts) s (featureRecordTaken deck lane k a w o s) :=
  takeTraffic_only _ _ _ _ (fun _ _ => .via (takeFeature_leaves ..) rfl (.refl ..)) rfl

/-! ### Only as stated -/

/-- The other bank's state and the holder counts are as they were. -/
theorem Only.holdsStay {W : List Part} {s t : State} (k : Only W s t) (holds : W.contains .holds = false) :
    t.tables.otherState = s.tables.otherState ∧ t.tables.holders0 = s.tables.holders0 ∧
      t.tables.holders1 = s.tables.holders1 := by
  obtain ⟨zero, one, other⟩ := k.holds.resolve_left (Part.unnamed holds)
  exact ⟨other, zero, one⟩

/-- Settles O5: the items by `exec_only` and by what a Write, a Copy and a warm reset do to the STAGING bank; the ACTIVE
bank and the holds by `exec_only`, but for a FRAME and a FEATURE, which end no hold. -/
theorem banksChangeOnlyAsStated : Obligations.BanksChangeOnlyAsStated := by
  refine ⟨fun c s t wf h => ?items, fun c s t wf h => ?active, fun c s t wf d h => ?holds⟩
  case items =>
    have k := exec_only wf h
    cases c
    case powerOn | loadingEnd => trivial
    case writeTable =>
      cases h
      exact takeRequest_tables_of (P := fun t u => u.bank t.active = t.bank t.active) (fun _ => rfl)
        (fun u => writeRequest_active _ _ _ u) s
    case copyCompletion => cases h; exact completeCopy_active s
    case read => cases h; exact takeRequest_tables_of copiesAtMost_refl (fun u => copyProgress_copies u) s
    case pinReset => cases h; rw [pinReset_tables]; exact warmReset_copies ..
    case restart => cases h; exact takeRequest_tables_of copiesAtMost_refl (fun u => warmReset_copies u.draws u.tables) s
    all_goals exact k.banks.resolve_left (Part.unnamed rfl)
  case active =>
    have k := exec_only wf h
    cases c
    case openSheet | retirement | forwardPulse | modeStandbyFlush | commit | commitTakesEffect | powerOn => trivial
    all_goals exact k.active.resolve_left (Part.unnamed rfl)
  case holds =>
    have k := exec_only wf h
    cases c
    case frame => cases h; exact (frameRecordTaken_leaves _ _ d).holdsStay rfl
    case feature => cases h; exact (featureRecordTaken_leaves ..).holdsStay rfl
    case openSheet | closeSheet | forwardPulse | reversePulse | silencePosition | overlength | decisionPoint | retirement
        | evaluationCompletion | commit | commitTakesEffect | bankRelease | modeStandbyFlush | powerOn | pinReset
        | restart => trivial
    all_goals exact k.holdsStay rfl

end Sys2Proof.Machine
end

section
/-! The release of a bank, a commit and the drain-end notice as events of their own (R114, R119, R120, R168), and the
Commit request, whose effect is the same event (R117, R118). -/
namespace Sys2Proof.Machine
open Sys2Proof.Safety

/-! ### The internal events -/

/-- A RETIRING bank without a holder is released (R114). -/
theorem releaseBank_free (c : Ctx) {s : State} (retiring : s.tables.otherState = .retiring)
    (free : s.tables.holders s.tables.other = 0) :
    releaseBank c s = raise c .bankReleased (s.setTables { s.tables with otherState := .staging }) :=
  if_pos (by simp [retiring, free])

theorem releaseBank_stays (c : Ctx) {s : State}
    (h : s.tables.otherState = .staging ∨ 0 < s.tables.holders s.tables.other) : releaseBank c s = s := by
  rcases releaseBank_cases c s with ⟨retiring, free, -⟩ | ⟨-, k⟩
  · rcases h with h | h
    · rw [h] at retiring; cases retiring
    · exact absurd free h.ne'
  · exact k

/-- With the queue empty a pending commit takes effect; with an entry in it it waits (R117, R119). -/
theorem commitIfQueueEmpty_pending (c : Ctx) {s : State} (sheets : s.tracker.sheets = [])
    (pending : s.tables.commitPending = true) : commitIfQueueEmpty c s = commitEffect c s := by
  unfold commitIfQueueEmpty
  rw [if_pos (by simp [sheets]), commitIfPending_pending c pending]

theorem commitIfQueueEmpty_stays (c : Ctx) {s : State}
    (h : s.tables.commitPending = false ∨ s.tracker.sheets ≠ []) : commitIfQueueEmpty c s = s := by
  unfold commitIfQueueEmpty; split
  · next empty => exact commitIfPending_none c (h.resolve_right (not_not.mpr (List.isEmpty_iff.mp empty)))
  · rfl

/-- A commit that takes effect raises COMMIT_DONE and no other flag (R120). -/
theorem commitEffect_raises (c : Ctx) (s : State) : raises [.commitDone] s (commitEffect c s) := raises_raise ..

/-- What names no field of the agent leaves it. -/
theorem Only.agent {W : List Part} {s t : State} (k : Only W s t)
    (sub : (([.mode, .lineTest, .copyReply, .options] : List Part).all fun p => !W.contains p) = true) :
    t.agent = s.agent := by
  simp only [List.all_cons, List.all_nil, Bool.and_true, Bool.and_eq_true, Bool.not_eq_true'] at sub
  obtain ⟨mode, test, reply, options⟩ := sub
  have a := k.mode.resolve_left (Part.unnamed mode)
  have b := k.lineTest.resolve_left (Part.unnamed test)
  have d := k.copyReply.resolve_left (Part.unnamed reply)
  have e := k.options.resolve_left (Part.unnamed options)
  cases h : t.agent; cases h' : s.agent; simp_all

/-- Settles O45: each event where its condition stands, and where it does not. -/
theorem internalEventsOfBanksAndDraining : Obligations.InternalEventsOfBanksAndDraining := by
  refine ⟨fun s retiring free => ?_, fun s sheets pending => ?_, fun s mode sheets blind => ?_, fun s => ⟨fun h => ?_,
    fun h => ?_, fun h => ?_⟩⟩
  · exact ⟨_, congrArg Host.Outcome.next (releaseBank_free (Ctx.now s) retiring free), raise_tables ..,
      raises_raise ..⟩
  · exact ⟨_, congrArg Host.Outcome.next (commitIfQueueEmpty_pending (Ctx.now s) sheets pending),
      commitEffect_tables .., commitEffect_raises ..⟩
  · exact ⟨_, congrArg Host.Outcome.next (drainEnd_ends (Ctx.now s) mode sheets blind), (raise_only ..).agent rfl,
      raises_raise ..⟩
  · exact congrArg Host.Outcome.next (releaseBank_stays (Ctx.now s) h)
  · exact congrArg Host.Outcome.next (commitIfQueueEmpty_stays (Ctx.now s) h)
  · exact congrArg Host.Outcome.next (giveNotice_stays true (Ctx.now s) h)

/-! ### The Commit request (R117, R118) -/

section
variable {s : State}

/-- While a Copy is in flight the Table Store refuses with COPY_BUSY (R122). -/
theorem tableBusy_copying (flying : s.tables.copyInFlight = true) : tableBusy s = some (.refuse .copyBusy) :=
  if_pos flying

/-- While the other bank is RETIRING or a commit pending it refuses with BANK_BUSY (R115, R117). -/
theorem tableBusy_taken (still : s.tables.copyInFlight = false)
    (taken : s.tables.otherState = .retiring ∨ s.tables.commitPending = true) :
    tableBusy s = some (.refuse .bankBusy) := by
  unfold tableBusy
  rw [if_neg (by simp [still])]
  exact if_pos (by simpa using taken)

theorem tableBusy_free (still : s.tables.copyInFlight = false) (staging : s.tables.otherState = .staging)
    (idle : s.tables.commitPending = false) : tableBusy s = none := by
  simp [tableBusy, still, staging, idle]

theorem commitRequest_busy {a : Answer} (busy : tableBusy s = some a) : commitRequest s = (s, some a) := by
  unfold commitRequest; rw [busy]

theorem commitRequest_invalid (free : tableBusy s = none) {i : Nat}
    (fails : firstCommitFailure s.settings (s.tables.bank s.tables.other) = some i) :
    commitRequest s = (s, some (.at .tableInvalid i)) := by
  unfold commitRequest; rw [free]; dsimp only; rw [fails]

theorem commitRequest_valid (free : tableBusy s = none)
    (holds : firstCommitFailure s.settings (s.tables.bank s.tables.other) = none) : commitRequest s =
      (commitIfQueueEmpty (Ctx.now s) (s.setTables { s.tables with commitPending := true }), some .done) := by
  unfold commitRequest; rw [free]; dsimp only; rw [holds]

end

theorem exec_commit {h : ReqHeader} {s u : State} (t : takes h s) {a : Answer} (act : commitRequest s = (u, some a)) :
    exec (.commit h) s = .next (answered h a s u) :=
  congrArg Host.Outcome.next (takeRequest_answer t act)

/-- Settles O46: the refusals in their order, and a commit that waits or, with the queue empty, takes effect. -/
theorem commitIsCheckedThenPending : Obligations.CommitIsCheckedThenPending := by
  refine fun s h t => ⟨fun flying => exec_commit t (commitRequest_busy (tableBusy_copying flying)),
    fun still taken => exec_commit t (commitRequest_busy (tableBusy_taken still taken)), fun still staging idle => ?_⟩
  have free := tableBusy_free still staging idle
  obtain ⟨p, asked⟩ : ∃ p, p = s.setTables { s.tables with commitPending := true } := ⟨_, rfl⟩
  refine ⟨fun i fails => exec_commit t (commitRequest_invalid free fails), fun holds sheets => ?_,
    fun holds sheets => ⟨commitEffect (Ctx.now s) p, ?_, ?_, ?_⟩⟩
  · refine exec_commit t ((commitRequest_valid free holds).trans ?_)
    rw [commitIfQueueEmpty_stays (Ctx.now s) (s := s.setTables { s.tables with commitPending := true }) (.inr sheets)]
  · refine exec_commit t ((commitRequest_valid free holds).trans ?_)
    rw [← asked, commitIfQueueEmpty_pending (Ctx.now s) (asked ▸ sheets) (asked ▸ rfl)]
  · rw [commitEffect_tables, asked, ← idle]; rfl
  · rw [asked]; exact commitEffect_raises ..

end Sys2Proof.Machine
end

section
/-! A Copy (R122, R123, R163): its request, the elements a Read finds half done, and its completion. -/
namespace Sys2Proof.Machine
open Sys2Proof.Safety

/-! ### Elements of a bank partly copied (R122, R123, log 8) -/

/-- What is read from an item copied or not is read from one of the two. -/
theorem pick_read {α β : Type} (c : Bool) (f : α → β) (old new : α) :
    f (if c then new else old) = f old ∨ f (if c then new else old) = f new := by
  cases c
  · exact .inl rfl
  · exact .inr rfl

theorem elem_ofFn {α : Type} {n : Nat} (f : Fin n → α) (i : Nat) (d : α) :
    elem (Vector.ofFn f) i d = if h : i < n then f ⟨i, h⟩ else d := by
  unfold elem
  split
  · next inside => simp [inside]
  · next outside => simp [outside]

theorem elem_eq_get {α : Type} {n : Nat} (v : Vector α n) (i : Nat) (d : α) :
    elem v i d = if h : i < n then v.get ⟨i, h⟩ else d := by
  split
  · next inside => exact elem_get v ⟨i, inside⟩ d
  · next outside => simp [elem, outside]

/-- An element of a table partly copied is the element of one of the two tables. -/
theorem elem_mixVec {α : Type} {n : Nat} (pick : Nat → Bool) (old new : Vector α n) (i : Nat) (d : α) :
    elem (mixVec pick old new) i d = if pick i then elem new i d else elem old i d := by
  unfold mixVec
  rw [elem_ofFn, elem_eq_get, elem_eq_get]
  split
  · rfl
  · exact (ite_self d).symm

theorem mixVec_read {α β : Type} {n : Nat} (pick : Nat → Bool) (old new : Vector α n) (i : Nat) (d : α) (f : α → β) :
    f (elem (mixVec pick old new) i d) = f (elem old i d) ∨ f (elem (mixVec pick old new) i d) = f (elem new i d) := by
  rw [elem_mixVec]; exact pick_read ..

theorem mixVec_self {α : Type} {n : Nat} (pick : Nat → Bool) (v : Vector α n) : mixVec pick v v = v := by
  ext i inside
  simp [mixVec, Vector.get_eq_getElem]

theorem mixRule_self (pick : Nat → Nat → Bool) (n : Nat) (r : Rule) : mixRule pick n r r = r := by
  simp only [mixRule, ite_self, mixVec_self]

/-- A rule of a bank partly copied is its rule partly copied; there is none outside the bank. -/
theorem mixBank_rule (pick : Nat → Nat → Bool) (old new : Bank) (n : Nat) (d : Rule) :
    elem (mixBank pick old new).rules n d = mixRule pick n (elem old.rules n d) (elem new.rules n d) := by
  unfold mixBank; dsimp only
  rw [elem_ofFn, elem_eq_get, elem_eq_get]
  split
  · rfl
  · exact (mixRule_self ..).symm

theorem mixBank_curve (pick : Nat → Nat → Bool) (old new : Bank) (n : Fin 3) : (mixBank pick old new).curves.get n =
    mixVec (pick (0x48 + n.val)) (old.curves.get n) (new.curves.get n) := by
  simp [mixBank, Vector.get_eq_getElem]

/-- A field of a rule partly copied, by the fields of Table 12-5. -/
theorem mixRule_field (pick : Nat → Nat → Bool) (n : Nat) (old new : Rule) : ∀ f : Nat,
    (mixRule pick n old new).field f = old.field f ∨ (mixRule pick n old new).field f = new.field f
  | 0 => pick_read _ (fun g : Fin 12 => [val g.val]) ..
  | 1 => pick_read _ (fun g : Fin 6 => [val g.val]) ..
  | 2 => pick_read _ (fun p => [valPattern p]) ..
  | 3 => pick_read _ valOpt1 ..
  | 4 => pick_read _ valOpt1 ..
  | 5 => pick_read _ valOpt1 ..
  | 6 => pick_read _ valOpt1 ..
  | 7 => pick_read _ (fun p : Policy => Rule.field { old with policy := p } 7) ..
  | _ + 8 => pick_read _ (fun c : Fin 13 => [val c.val]) ..

/-- Every element of a bank partly copied reads as in one of the two banks. -/
theorem mixBank_read (pick : Nat → Nat → Bool) (old new : Bank) (o : TableObject) (i : Nat) :
    o.read (mixBank pick old new) i = o.read old i ∨ o.read (mixBank pick old new) i = o.read new i := by
  cases o <;> simp only [TableObject.read]
  case classTable => exact mixVec_read (pick 0x40) _ _ i _ fun e : ClassEntry => [e.value]
  case bandLimits => exact mixVec_read (pick 0x41) _ _ i _ fun w : Word => [w]
  case edgeZone => exact pick_read _ (fun w : Word => [w]) ..
  case ruleCount => exact pick_read _ (fun n : Fin 9 => [val n.val]) ..
  case ruleFields => rw [mixBank_rule]; exact mixRule_field ..
  case classLimits =>
    rw [mixBank_rule]
    exact mixVec_read (fun k => pick 0x45 (i / 12 * 12 + k)) _ _ (i % 12) _ ClassLimit.values
  case outcomes =>
    exact mixVec_read (pick 0x46) _ _ i _ fun r : ReservedOutcome => [val r.gate.val, valPattern r.pattern]
  case knots => exact mixVec_read (pick 0x47) _ _ i _ fun w : Word => [w]
  case curve n => rw [mixBank_curve]; exact mixVec_read (pick (0x48 + n.val)) _ _ i _ fun w : Word => [w]
  case thresholds => exact mixVec_read (pick 0x4B) _ _ i _ fun w : Word => [w]
  case wetLimit => exact pick_read _ (fun w : Word => [w]) ..
  case patterns =>
    exact mixVec_read (pick 0x4D) _ _ i _ fun p : NozzleSet => [(p >>> 16).setWidth 16, p.setWidth 16]
  case rowCount => exact pick_read _ (fun n : Fin 8 => [val n.val]) ..

/-! ### The rows of a Copy and a Read -/

theorem copyRequest_busy {s : State} {a : Answer} (h : ReqHeader) (busy : tableBusy s = some a) :
    copyRequest h s = (s, some a) := by
  unfold copyRequest; rw [busy]

theorem copyRequest_free {s : State} (h : ReqHeader) (free : tableBusy s = none) : copyRequest h s =
    ((s.setTables { s.tables with copyInFlight := true }).setAgent
      { s.agent with copyReply := some ⟨h.number, requestAnswered h s⟩ }, none) := by
  unfold copyRequest; rw [free]

theorem exec_copy_busy {h : ReqHeader} {s : State} (t : takes h s) {a : Answer} (busy : tableBusy s = some a) :
    exec (.copy h) s = .next (answered h a s s) :=
  congrArg Host.Outcome.next (takeRequest_answer t (copyRequest_busy h busy))

theorem exec_copy_free {h : ReqHeader} {s : State} (t : takes h s) (free : tableBusy s = none) : exec (.copy h) s =
    .next ((s.setTables { s.tables with copyInFlight := true }).setAgent
      { s.agent with copyReply := some ⟨h.number, requestAnswered h s⟩ }) :=
  congrArg Host.Outcome.next (takeRequest_silent t (copyRequest_free h free))

theorem copyProgress_copying {s : State} (flying : s.tables.copyInFlight = true) : copyProgress s =
    draw (s.setTables (s.tables.setBank s.tables.other (partlyCopied s.draws s.tables))) := if_pos flying

/-! ### The completion -/

/-- A Copy has completed, but for its REPLY. -/
def copyEnded (s : State) : State := (s.setTables s.tables.copied).setAgent { s.agent with copyReply := none }

theorem completeCopy_reply {s : State} {r : CopyReply} (flying : s.tables.copyInFlight = true)
    (reply : s.agent.copyReply = some r) : completeCopy s =
      if r.due then offer (.reply r.number s.agent.station .done []) (copyEnded s) else copyEnded s := by
  unfold completeCopy
  rw [if_pos flying, reply]
  rfl

/-- What the end of a Copy leaves of the Table Store and the agent, whether its REPLY is due or not. -/
theorem completeCopy_ends {s : State} {r : CopyReply} (flying : s.tables.copyInFlight = true)
    (reply : s.agent.copyReply = some r) :
    (completeCopy s).tables = s.tables.copied ∧ (completeCopy s).agent.copyReply = none := by
  rw [completeCopy_reply flying reply]
  split
  · exact ⟨(offer_only ..).tables rfl, (offer_only ..).copyReply.resolve_left (Part.unnamed rfl)⟩
  · exact ⟨rfl, rfl⟩

/-- Settles O47: the request, a Read of the bank partly copied, and the completion. -/
theorem copyStartsAndCompletes : Obligations.CopyStartsAndCompletes := by
  refine ⟨fun s h t => ⟨fun flying => exec_copy_busy t (tableBusy_copying flying),
    fun still taken => exec_copy_busy t (tableBusy_taken still taken),
    fun still staging idle => ⟨_, exec_copy_free t (tableBusy_free still staging idle), rfl, rfl, rfl⟩⟩,
    fun s h object selector index count t flying => ?_, fun s r flying reply => ?_⟩
  · refine ⟨partlyCopied s.draws s.tables, copyProgress s, copyProgress_copying flying, ?_, mixBank_read _ _ _⟩
    exact congrArg Host.Outcome.next (takeRequest_answer t rfl)
  · obtain ⟨tables, answered⟩ := completeCopy_ends flying reply
    refine ⟨completeCopy s, rfl, ?_, ?_, ?_, answered, fun due room => ?_, fun silent => ?_⟩
    · rw [tables, copied_bank]
    · rw [tables, copied_bank]
    · rw [tables]; rfl
    · rw [completeCopy_reply flying reply, if_pos due]
      exact offer_onLink (s := copyEnded s) room
    · rw [completeCopy_reply flying reply, if_neg (by simp [silent])]
      rfl

end Sys2Proof.Machine
end

section
/-! What a power-on leaves (R128, R181, R184, R185): the state after reset, with the input levels and the Option Block of
the part. -/
namespace Sys2Proof.Machine
open Sys2Proof.Safety

theorem get_replicate {α : Type} {n : Nat} (a : α) (i : Fin n) : (Vector.replicate n a).get i = a := by
  simp [Vector.get_eq_getElem]

/-- Both banks at power-on (R128, log 15). -/
theorem powerOn_bank (s : State) (id : BankId) :
    (powerOn s).tables.bank id = Bank.powerOn defaultKnots defaultCurves := by cases id <;> rfl

/-- The items of a bank at power-on, each at its default (R128). -/
theorem bankPowerOn_items : ∀ b : Bank, b = Bank.powerOn defaultKnots defaultCurves →
    b.ruleCount = 0 ∧ b.edgeZone = 0 ∧ b.rowCount = 1 ∧ (∀ i, b.classTable.get i = ⟨none, false⟩) ∧
    b.bandLimits = #v[100, 300, 600] ∧ (∀ i, b.rules.get i = Rule.powerOn) ∧ (∀ i, b.outcomes.get i = ⟨0, none⟩) ∧
    b.knots = #v[0, 8192, 16384, 24576, 32768, 40960, 49152, 57344] ∧ (∀ c i, (b.curves.get c).get i = 0) ∧
    (∀ i, b.thresholds.get i = 0) ∧ b.wetLimit = 999 ∧ ∀ i, b.patterns.get i = 0 := by
  rintro b rfl
  have curves : ∀ (c : Fin 3) (i : Fin 128), (defaultCurves.get c).get i = 0 := fun c i => by
    unfold defaultCurves; rw [get_replicate, get_replicate]
  exact ⟨rfl, rfl, rfl, get_replicate _, rfl, get_replicate _, get_replicate _, rfl, curves, get_replicate _, rfl,
    get_replicate _⟩

/-- In the LOADING of a power-on a pin reset keeps the start-up record (R182). -/
theorem pinReset_powerOn {s : State} (loading : s.agent.mode = .loading) (power : s.attention.startup.cause = .power) :
    pinReset s = warmReset s.attention.startup s := if_pos (by simp [loading, power])

/-- Settles O59: field by field of the state after reset, and a pin reset in the LOADING of a power-on. -/
theorem powerOnSetsDefaults : Obligations.PowerOnSetsDefaults := by
  refine ⟨fun s => ?_, fun s loading power => ?_⟩
  · obtain ⟨alert, divert, nozzles⟩ := outputs_off (s := powerOn s) rfl rfl rfl rfl rfl
    refine ⟨powerOn s, rfl, ?_⟩
    exact ⟨rfl, rfl, rfl, rfl, rfl, rfl, rfl, rfl, rfl, rfl, rfl, rfl, rfl, rfl, rfl, rfl, rfl, rfl, rfl, rfl, rfl,
      get_replicate _, rfl, rfl, rfl, rfl, rfl, fun id => bankPowerOn_items _ (powerOn_bank s id), rfl, rfl, rfl, rfl,
      rfl, rfl, rfl, rfl, rfl, rfl, rfl, rfl, alert, divert, nozzles, rfl, rfl, rfl, rfl, get_replicate _, rfl, rfl, rfl,
      rfl, rfl⟩
  · exact ⟨_, congrArg Host.Outcome.next (pinReset_powerOn loading power), rfl, rfl, rfl⟩

end Sys2Proof.Machine
end

section
/-! The Route Link through every command (R133, R134): what an invariant over the Output Queue, the record in sending
and READY has to survive, and the invariants of the link. -/
namespace Sys2Proof.Machine
open Sys2Proof.Safety

/-! ### An invariant over the link -/

/-- Every part of State but the link and the input lines. -/
abbrev besideLink : List Part :=
  [.scan, .rejected, .position, .watches, .settings, .entries, .tags, .holdings, .tagCounter, .blind, .evaluator,
   .banks, .copyInFlight, .active, .commitPending, .holds, .interval, .marker, .mode, .lineTest, .copyReply, .options,
   .flags, .grades, .startup, .optionBlock, .draws, .pending]

/-- An invariant over the link that survives the few operations on it, and holds of an empty one. -/
structure LinkStable (I : State → Prop) : Prop where
  beside : ∀ {s t : State}, Only besideLink s t → I s → I t
  begun : ∀ s : State, I s → I (tryBegin s)
  offered : ∀ (r : OutRecord) (s : State), I s → I (offer r s)
  placed : ∀ (r : OutRecord) (s t : State), r.isRoute = true → roomForRoute s = true →
    Only [.entries, .watches] (enqueue r s) t → I s → I (tryBegin t)
  filtered : ∀ (p : OutRecord → Bool) (s : State), I s → I (s.setLink { s.link with queue := s.link.queue.filter p })
  completed : ∀ (b : Bool) (s : State), I s → I (completeSending b s)
  pinsKept : ∀ (p : Pins) (s : State), p.ready = s.pins.ready → I s → I (s.setPins p)
  pinsRead : ∀ (p : Pins) (s : State), I s → I (tryBegin (s.setPins p))
  empty : ∀ s : State, s.link = ⟨[], none⟩ → I s

namespace LinkStable

variable {I : State → Prop} (h : LinkStable I)
include h

theorem via {W : List Part} {s t : State} (k : Only W s t) (sub : (W.all fun p => besideLink.contains p) = true)
    (i : I s) : I t := h.beside (k.mono sub) i

theorem raised (c : Ctx) (f : Flag) {s : State} (i : I s) : I (raise c f s) := by
  have j : I (setFlag f s) := h.via (setFlag_only ..) rfl i
  unfold raise; split
  · exact i
  · dsimp only; split
    · exact h.offered _ _ j
    · exact j

/-! ### Banks and holds -/

theorem releaseBank (c : Ctx) {s : State} (i : I s) : I (releaseBank c s) := by
  rcases releaseBank_cases c s with ⟨-, -, k⟩ | ⟨-, k⟩ <;> rw [k]
  · exact h.raised _ _ (h.beside (by constructor <;> simp [holdingsOf]) i)
  · exact i

theorem releaseHold (c : Ctx) (id : BankId) {s : State} (i : I s) : I (releaseHold c id s) := by
  have counted := h.via (setHolders_only s id (s.tables.holders id - 1)) rfl i
  unfold Machine.releaseHold; dsimp only; split
  · exact counted
  · exact h.releaseBank c counted

theorem endHold (c : Ctx) (tag : Tag) {s : State} (i : I s) : I (endHold c tag s) := by
  refine Stable.entry i fun e _ => ?_
  split
  · exact h.releaseHold _ _ (h.beside (by constructor <;> simp [modifyEntry]) i)
  · exact i

theorem commitEffect (c : Ctx) {s : State} (i : I s) : I (commitEffect c s) :=
  h.raised _ _ (h.beside (by constructor <;> simp [holdingsOf]) i)

theorem commitIfPending (c : Ctx) {s : State} (i : I s) : I (commitIfPending c s) := by
  unfold Machine.commitIfPending; split
  · exact h.commitEffect c i
  · exact i

/-! ### Routes -/

theorem divertEntry (c : Ctx) (tag : Tag) {s : State} (i : I s) : I (divertEntry c tag s) :=
  Stable.entry i fun e _ => h.raised _ _ (h.via (windowArmed_only c tag e s) rfl i)

theorem firePoint (tag : Tag) (w : Watch) {s : State} (i : I s) : I (firePoint tag w s) := by
  unfold Machine.firePoint; dsimp only
  refine Stable.entry i fun e _ => ?_
  split
  · next d _ =>
    split
    · split
      · next room =>
        refine h.placed (.route tag d.gate d.grade e.leading) s _ rfl room ?_ i
        exact .via (arm_only ..) rfl (.via (modifyEntry_only _ _ _ fun _ => ⟨rfl, rfl, rfl⟩) rfl (.refl ..))
      · exact h.divertEntry _ _ i
    · exact i
  · exact i

theorem routeRetired (c : Ctx) (e : Entry) {s : State} (i : I s) : I (routeRetired c e s) := by
  unfold Machine.routeRetired; split
  · exact h.raised _ _ (h.filtered _ _ i)
  · split
    · exact h.raised _ _ i
    · exact i

theorem flush (c : Ctx) {s : State} (i : I s) : I (flush c s) := by
  have dropped : I (dropped s) := h.beside (by constructor <;> simp [holdingsOf, Machine.dropped]) i
  have unheld : I (flushTables c (Machine.dropped s)) :=
    h.commitIfPending _ (h.releaseBank _ (h.beside (by constructor <;> simp [holdingsOf]) dropped))
  have routed : I (flushRoute (flushTables c (Machine.dropped s))) :=
    h.via (intervalEnds_only _) rfl (h.filtered _ _ unheld)
  rw [flush_eq]
  exact h.beside (by constructor <;> simp [holdingsOf]) (h.via (endStamp_only _) rfl routed)

/-! ### Sheets that come and go -/

theorem openEntry (c : Ctx) (p : Position) (first last : Lane) {s : State} (i : I s) :
    I (openEntry c p first last s) := by
  rw [openEntry_eq]
  refine h.via (arm_only ..) rfl (h.via (arm_only ..) rfl (h.via (setHolders_only ..) rfl
    (h.beside ?_ (h.commitIfPending c i))))
  constructor <;> simp [holdingsOf]

theorem retired (c : Ctx) (e : Entry) {s : State} (i : I s) : I (abandonEvaluation e.tag
    (let u := markerRetired e.tag (Machine.routeRetired c e (removeEntry e.tag s))
     if e.holding then Machine.releaseHold c e.bank u else u)) := by
  have told : I (markerRetired e.tag (Machine.routeRetired c e (removeEntry e.tag s))) :=
    h.via (markerRetired_only ..) rfl (h.routeRetired _ _ (h.via (removeEntry_only ..) rfl i))
  refine h.via (abandonEvaluation_only ..) rfl ?_
  dsimp only; split
  · exact h.releaseHold _ _ told
  · exact told

/-! ### Every command -/

theorem stable : Stable I where
  other k := h.via k rfl
  modify _ f s keeps := h.via (modifyEntry_only _ f s keeps) rfl
  offered := h.offered
  begun := h.begun
  withdrawn _ := h.filtered _
  fired tag w _ := h.firePoint tag w
  completed := h.completed
  pinsKept := h.pinsKept
  pinsRead := h.pinsRead
  bankReleased c _ := h.releaseBank c
  holdEnded c tag _ := h.endHold c tag
  committed c _ := h.commitEffect c
  unlisted tag s := h.via (unlist_only tag s) rfl
  listed _ s _ := h.via (setEvaluator_only s _) rfl
  started s := h.via (startEvaluation_only s) rfl
  idled s := h.via (evaluatorIdle_only s) rfl
  stampSet v s _ := h.via (setMarker_only s v) rfl
  spanSet _ s _ := h.via (setBlind_only s _) rfl
  intervalSet v s _ := h.via (setInterval_only s v) rfl
  spanCleared s i := h.via (intervalEnds_only _) rfl (h.via (setBlind_only s none) rfl i)
  moded m s _ _ := h.via (setMode_only m s) rfl
  standby s _ _ := h.via (setMode_only .standby s) rfl
  testEnded _ := h.beside (by constructor <;> simp [holdingsOf])
  testHeld _ _ _ := h.beside (by constructor <;> simp [holdingsOf])
  opened c p f l _ _ _ := h.openEntry c p f l
  retired c e _ _ := h.retired c e
  flushed c _ i := h.via (setMode_only ..) rfl (h.flush c i)

theorem resetStable : ResetStable I where
  reset _ _ _ := h.empty _ rfl
  power _ _ := h.empty _ rfl

end LinkStable

/-! ### The two limits of the Output Queue (R133) -/

/-- What leaves no record anew in the queue keeps its limits. -/
theorem outputKept_sublist {s t : State} (sub : t.link.queue.Sublist s.link.queue) (h : outputKept s) : outputKept t :=
  ⟨sub.length_le.trans h.1, (sub.filter _).length_le.trans h.2⟩

theorem outputKept_congr {s t : State} (same : t.link = s.link) (h : outputKept s) : outputKept t :=
  outputKept_sublist (by rw [same]) h

theorem nonRouteCount_append (q : List OutRecord) (r : OutRecord) :
    nonRouteCount (q ++ [r]) = nonRouteCount q + if r.isRoute then 0 else 1 := by
  cases route : r.isRoute <;> simp [nonRouteCount, route]

/-- The head that begins sending leaves the queue. -/
theorem tryBegin_queue (s : State) : (tryBegin s).link.queue.Sublist s.link.queue := by
  rcases tryBegin_cases s with ⟨k, -⟩ | ⟨r, rest, link, -, k⟩
  · rw [k]
  · rw [k, (routeSent_only ..).link.resolve_left (Part.unnamed rfl), link]
    exact List.sublist_cons_self r rest

theorem outputKept_tryBegin {s : State} (h : outputKept s) : outputKept (tryBegin s) :=
  outputKept_sublist (tryBegin_queue s) h

/-- A ROUTE record is held to the limit of all records, another record to both. -/
theorem outputKept_enqueue {r : OutRecord} {s : State} (room : roomForRoute s = true)
    (other : r.isRoute = true ∨ nonRouteCount s.link.queue < Config.nonRouteMax) (h : outputKept s) :
    outputKept (enqueue r s) := by
  have length : s.link.queue.length < Config.outputQueueMax := of_decide_eq_true room
  have queue : (enqueue r s).link.queue = s.link.queue ++ [r] := rfl
  unfold outputKept
  rw [queue, nonRouteCount_append, List.length_append]
  refine ⟨length, ?_⟩
  rcases other with route | few
  · rw [if_pos route]; exact h.2
  · split
    · exact h.2
    · exact few

theorem outputKept_offer (r : OutRecord) {s : State} (h : outputKept s) : outputKept (offer r s) := by
  unfold offer; split
  · next room =>
    obtain ⟨all, few⟩ := Bool.and_eq_true_iff.mp room
    exact outputKept_tryBegin (outputKept_enqueue all (.inr (of_decide_eq_true few)) h)
  · exact h

theorem completeSending_queue (b : Bool) (s : State) : (completeSending b s).link.queue.Sublist s.link.queue := by
  unfold completeSending; split
  · exact tryBegin_queue _
  · exact .refl _

theorem linkStable_outputKept : LinkStable outputKept where
  beside k := outputKept_congr (k.link.resolve_left (Part.unnamed rfl))
  begun _ := outputKept_tryBegin
  offered r _ := outputKept_offer r
  placed _ _ _ route room k h := outputKept_tryBegin
    (outputKept_congr (k.link.resolve_left (Part.unnamed rfl)) (outputKept_enqueue room (.inl route) h))
  filtered _ _ := outputKept_sublist List.filter_sublist
  completed b s := outputKept_sublist (completeSending_queue b s)
  pinsKept _ _ _ h := h
  pinsRead _ _ h := outputKept_tryBegin h
  empty _ link := ⟨by simp [link], by simp [link, nonRouteCount]⟩

/-! ### A link that sends whenever it can (R134) -/

/-- With nothing sent anew and no record more, a link at rest stays so. -/
theorem linkAtRest_sublist {s t : State} (ready : t.pins.ready = s.pins.ready)
    (sending : t.link.sending = s.link.sending) (sub : t.link.queue.Sublist s.link.queue) (h : linkAtRest s) :
    linkAtRest t := fun high idle =>
  List.sublist_nil.mp (h (ready ▸ high) (sending ▸ idle) ▸ sub)

/-- READY low, a record in sending or an empty queue begins nothing (R134). -/
theorem tryBegin_held {s : State} (held : s.pins.ready = false ∨ s.link.sending.isSome = true ∨ s.link.queue = []) :
    tryBegin s = s := by
  rcases tryBegin_cases s with ⟨k, -⟩ | ⟨r, rest, link, ready, -⟩
  · exact k
  · rw [link, ready] at held
    simp at held

theorem linkAtRest_completeSending (b : Bool) {s : State} (h : linkAtRest s) : linkAtRest (completeSending b s) := by
  unfold completeSending; split
  · exact linkAtRest_tryBegin _
  · exact h

/-- A record for which there is room sees to it that sending begins. -/
theorem linkAtRest_offer_room {r : OutRecord} {s : State} (room : roomForOffered s = true) :
    linkAtRest (offer r s) := by
  unfold offer; rw [if_pos room]; exact linkAtRest_tryBegin _

theorem linkStable_linkAtRest : LinkStable linkAtRest where
  beside k := linkAtRest_only k (Part.unnamed rfl) (Part.unnamed rfl)
  begun s _ := linkAtRest_tryBegin s
  offered _ _ := linkAtRest_offer
  placed _ _ t _ _ _ _ := linkAtRest_tryBegin t
  filtered _ _ := linkAtRest_sublist rfl rfl List.filter_sublist
  completed b _ := linkAtRest_completeSending b
  pinsKept _ _ same := linkAtRest_sublist same rfl (.refl _)
  pinsRead _ _ _ := linkAtRest_tryBegin _
  empty _ link _ _ := by rw [link]

/-! ### The end of LOADING (R178, R183) -/

/-- The records of the start are offered with the Option Block taken; out of LOADING nothing ends. -/
theorem endLoading_cases (o : Option OptionBlock) (p : Pins) (s : State) :
    (s.agent.mode ≠ .loading ∧ endLoading o p s = s) ∨
      (s.agent.mode = .loading ∧ ∃ held, endLoading o p s =
        announce held (takeOptionBlock (o.getD s.optionBlock) p s)) := by
  by_cases loading : s.agent.mode = .loading
  · exact .inr ⟨loading, _, if_pos loading⟩
  · exact .inl ⟨loading, if_neg loading⟩

theorem endLoading_outputKept (o : Option OptionBlock) (p : Pins) {s : State} (h : outputKept s) :
    outputKept (endLoading o p s) := by
  rcases endLoading_cases o p s with ⟨-, k⟩ | ⟨-, held, k⟩ <;> rw [k]
  · exact h
  · have started := outputKept_offer (.start (takeOptionBlock (o.getD s.optionBlock) p s).attention.startup)
      (outputKept_congr (takeOptionBlock_link (o.getD s.optionBlock) p s) h)
    unfold announce; dsimp only; split
    · exact outputKept_offer _ started
    · exact started

/-- The START record finds room in an empty queue, and sending begins where it can. -/
theorem endLoading_linkAtRest (o : Option OptionBlock) (p : Pins) {s : State}
    (waits : s.agent.mode = .loading → s.link.queue = []) (h : linkAtRest s) : linkAtRest (endLoading o p s) := by
  rcases endLoading_cases o p s with ⟨-, k⟩ | ⟨loading, held, k⟩ <;> rw [k]
  · exact h
  · have room : roomForOffered (takeOptionBlock (o.getD s.optionBlock) p s) = true := by
      unfold roomForOffered
      rw [takeOptionBlock_link, waits loading]; rfl
    unfold announce; dsimp only; split
    · exact linkAtRest_offer (linkAtRest_offer_room room)
    · exact linkAtRest_offer_room room

end Sys2Proof.Machine
end

section
/-! LOADING through every command (R9, R129, R146, R178): in it nothing is offered, and it is entered by a reset
alone. -/
namespace Sys2Proof.Machine
open Sys2Proof.Safety

/-! ### Entering LOADING -/

/-- The parts of State that `loadingAtRest` looks at. -/
abbrev loadingRestParts : List Part := [.mode, .link, .commitPending, .copyInFlight, .holds]

theorem Only.loadingAtRest {W : List Part} {s t : State} (k : Only W s t)
    (sub : (loadingRestParts.all fun p => !W.contains p) = true) (h : loadingAtRest s) : loadingAtRest t := by
  simp only [List.all_cons, List.all_nil, Bool.and_true, Bool.and_eq_true, Bool.not_eq_true'] at sub
  obtain ⟨mode, link, pending, copying, holds⟩ := sub
  unfold Safety.loadingAtRest
  rw [k.mode.resolve_left (Part.unnamed mode), k.link.resolve_left (Part.unnamed link),
    k.commitPending.resolve_left (Part.unnamed pending), k.copyInFlight.resolve_left (Part.unnamed copying),
    (k.holds.resolve_left (Part.unnamed holds)).2.2]
  exact h

theorem loadingAtRest_loaded {s : State} (loaded : s.agent.mode ≠ .loading) : loadingAtRest s :=
  fun m => absurd m loaded

theorem loadingAtRest_warmReset (r : StartRecord) (s : State) : loadingAtRest (warmReset r s) :=
  fun _ => ⟨rfl, rfl, rfl, rfl⟩

theorem loadingAtRest_pinReset (s : State) : loadingAtRest (pinReset s) := by
  unfold pinReset; split <;> exact loadingAtRest_warmReset _ _

/-- LOADING ends in STANDBY (R183). -/
theorem endLoading_loaded (o : Option OptionBlock) (p : Pins) (s : State) :
    (endLoading o p s).agent.mode ≠ .loading := by
  rcases endLoading_cases o p s with ⟨loaded, k⟩ | ⟨-, held, k⟩ <;> rw [k]
  · exact loaded
  · rw [(announce_only ..).mode.resolve_left (Part.unnamed rfl), takeOptionBlock_agent]
    exact Mode.noConfusion

theorem Only.loaded {W : List Part} {s t : State} (k : Only W s t) (mode : W.contains .mode = false)
    (h : s.agent.mode ≠ .loading) : t.agent.mode ≠ .loading := by
  rw [k.mode.resolve_left (Part.unnamed mode)]; exact h

/-- No operation but a reset enters LOADING (R181). -/
theorem stable_loaded : Stable fun s => s.agent.mode ≠ .loading where
  other k := k.loaded rfl
  modify _ f s keeps := (modifyEntry_only _ f s keeps).loaded rfl
  offered r s := (offer_only r s).loaded rfl
  begun s := (tryBegin_only s).loaded rfl
  withdrawn tag s := (withdraw_only tag s).loaded rfl
  fired tag w s := (firePoint_only tag w s).loaded rfl
  completed b s := (completeSending_only b s).loaded rfl
  pinsKept p s _ := (setPins_only s p).loaded rfl
  pinsRead p s := (sampleLevels_only p s).loaded rfl
  bankReleased c s := (releaseBank_only c s).loaded rfl
  holdEnded c tag s := (endHold_only c tag s).loaded rfl
  committed c s := (commitEffect_only c s).loaded rfl
  unlisted tag s := (unlist_only tag s).loaded rfl
  listed _ s _ := (setEvaluator_only s _).loaded rfl
  started s := (startEvaluation_only s).loaded rfl
  idled s := (evaluatorIdle_only s).loaded rfl
  stampSet v s _ := (setMarker_only s v).loaded rfl
  spanSet _ s _ := (setBlind_only s _).loaded rfl
  intervalSet v s _ := (setInterval_only s v).loaded rfl
  spanCleared s h := (intervalEnds_only _).loaded rfl ((setBlind_only s none).loaded rfl h)
  moded m s goes _ _ := by rcases goes with rfl | rfl <;> exact Mode.noConfusion
  standby _ _ _ _ := Mode.noConfusion
  testEnded _ h := h
  testHeld _ _ _ h := h
  opened c p f l s _ _ := (openEntry_only c p f l s).loaded rfl
  retired c e s _ h := (afterRemoval_only c e _).loaded rfl ((removeEntry_only ..).loaded rfl h)
  flushed _ _ _ := Mode.noConfusion

/-- A command that comes after LOADING leaves LOADING behind it, or resets the part. -/
theorem exec_loaded {c : Instr} {s t : State} (loaded : s.agent.mode ≠ .loading) (wf : c.wf = true)
    (run : exec c s = .next t) : loadingAtRest t := by
  have h := stable_loaded
  cases c
  case powerOn => cases run; exact fun _ => ⟨rfl, rfl, rfl, rfl⟩
  case pinReset => cases run; exact loadingAtRest_pinReset s
  case restart r =>
    cases run
    unfold takeRequest; dsimp only; split
    · exact loadingAtRest_loaded (h.startMark loaded)
    · split
      · exact loadingAtRest_warmReset _ _
      · exact loadingAtRest_loaded (h.startMark loaded)
  all_goals refine loadingAtRest_loaded ?_
  case modeStreaming | modeStandbyDrain | modeStandbyFlush =>
    cases run; exact h.takeRequest _ (fun _ j => h.modeRequest _ j) loaded
  case forwardPulse => cases run; exact h.forwardPulse _ loaded
  case retirement =>
    cases run; exact h.named (fun _ _ j => h.withNotice (fun _ _ _ j => h.retirementReached _ _ _ j) _ j) loaded
  case clearing => cases run; exact h.named (fun _ _ j => h.withNotice (fun _ _ _ j => h.clearSpan _ _ j) _ j) loaded
  case drainEndNotice => cases run; exact h.drainEnd _ loaded
  case loadingEnd => cases run; exact endLoading_loaded _ _ _
  all_goals exact (exec_only wf run).loaded rfl loaded

/-! ### In LOADING -/

/-- LOADING with nothing tracked and nothing to offer: what `loadingAtRest` and `trackingKept` come to in it. -/
structure Loading (s : State) : Prop where
  mode : s.agent.mode = .loading
  link : s.link = ⟨[], none⟩
  pending : s.tables.commitPending = false
  copying : s.tables.copyInFlight = false
  staging : s.tables.otherState = .staging
  sheets : s.tracker.sheets = []
  blind : s.tracker.blind = none
  inFlight : s.evaluator.inFlight = none

theorem Loading.of_kept {s : State} (mode : s.agent.mode = .loading) (rest : loadingAtRest s)
    (tracked : trackingKept s) : Loading s := by
  obtain ⟨link, pending, copying, staging⟩ := rest mode
  obtain ⟨-, named, -, -, idle⟩ := tracked
  obtain ⟨sheets, blind⟩ := idle (.inl mode)
  refine ⟨mode, link, pending, copying, staging, sheets, blind,
    Option.eq_none_iff_forall_ne_some.mpr fun f flight => ?_⟩
  have member := named f flight
  rw [(sheets_nil_iff s).mp sheets] at member
  cases member

theorem Loading.rest {s : State} (h : Loading s) : loadingAtRest s :=
  fun _ => ⟨h.link, h.pending, h.copying, h.staging⟩

theorem Loading.dropWatch {s : State} (h : Loading s) (w : Watch) : Loading (dropWatch w s) :=
  ⟨h.mode, h.link, h.pending, h.copying, h.staging, h.sheets, h.blind, h.inFlight⟩

theorem Loading.draw {s : State} (h : Loading s) : Loading (draw s) :=
  ⟨h.mode, h.link, h.pending, h.copying, h.staging, h.sheets, h.blind, h.inFlight⟩

/-- With no sheet there is no entry to act on. -/
theorem withEntry_untracked {s : State} (none_ : s.tracker.sheets = []) (tag : Tag) (f : Entry → State → State) :
    withEntry tag f s = s := by
  have absent : findEntry tag s = none := by unfold findEntry; rw [none_]; rfl
  unfold withEntry; rw [absent]

/-- A position taken without an effect on what is at rest. -/
theorem takeNamed_loadingAtRest {kind : WatchKind} {act : Watch → State → State} {s : State} (h : Loading s)
    (rests : ∀ w u, Loading u → Only [.watches, .draws] u (act w u)) : loadingAtRest (takeNamed kind act s) := by
  unfold takeNamed; split
  · next w _ =>
    split
    · exact (rests w _ (h.dropWatch w)).loadingAtRest rfl (h.dropWatch w).rest
    · exact h.rest
  · exact h.rest

/-- In LOADING no event offers a record or reaches the Table Store (R129, R146). -/
theorem event_loading {c : Instr} {s t : State} (isRequest : header c = none) (isTraffic : traffic s c = none)
    (h : Loading s) (wf : c.wf = true) (run : exec c s = .next t) : loadingAtRest t := by
  have idle : ∀ {tag} {f : Watch → Entry → State → State} (w : Watch) (u : State), Loading u →
      Only [.watches, .draws] u (withEntry tag (f w) u) :=
    fun w u k => by rw [withEntry_untracked k.sheets]; exact .refl ..
  cases c <;> cases isRequest <;> cases isTraffic
  case rejectedRecord line =>
    cases run
    obtain ⟨f, line⟩ := takeLine_loading line s h.mode
    rw [line]; exact (setFraming_only f s).loadingAtRest rfl h.rest
  case forwardPulse =>
    cases run; rw [forwardPulse_loading h.mode]; exact (pulseLevels_only ..).loadingAtRest rfl h.rest
  case reversePulse =>
    cases run; rw [reversePulse_loading h.mode]; exact (pulseLevels_only ..).loadingAtRest rfl h.rest
  case readyRise =>
    cases run
    rw [tryBegin_held (s := setReady true s) (.inr (.inr (congrArg Link.queue h.link)))]
    exact (setReady_only true s).loadingAtRest rfl h.rest
  case beginSending => cases run; rw [tryBegin_held (.inr (.inr (congrArg Link.queue h.link)))]; exact h.rest
  case sendingCompletion => cases run; unfold completeSending; rw [h.link]; exact h.rest
  case silencePosition =>
    cases run
    refine takeNamed_loadingAtRest h fun w u k => ?_
    unfold silenceReached; rw [k.mode, if_neg (by simp)]; exact .refl ..
  case overlength | decisionPoint | firePoint | staleExpiry | stampStart =>
    cases run; exact takeNamed_loadingAtRest h idle
  case retirement =>
    cases run
    refine takeNamed_loadingAtRest h fun w u k => ((draw_only u).mono rfl).trans ?_
    unfold withNotice retirementReached
    rw [withEntry_untracked k.draw.sheets]; exact .refl ..
  case clearing =>
    cases run
    refine takeNamed_loadingAtRest h fun w u k => ?_
    unfold withNotice clearSpan
    rw [k.draw.blind]; exact (draw_only u).mono rfl
  case evaluationCompletion => cases run; unfold completeEvaluation; rw [h.inFlight]; exact h.rest
  case copyCompletion => cases run; unfold completeCopy; rw [h.copying]; exact h.rest
  case commitTakesEffect =>
    cases run
    unfold commitIfQueueEmpty
    rw [commitIfPending_none _ h.pending, ite_self]; exact h.rest
  case bankRelease =>
    cases run
    rcases releaseBank_cases (Ctx.now s) s with ⟨retiring, -, -⟩ | ⟨-, k⟩
    · rw [h.staging] at retiring; cases retiring
    · rw [k]; exact h.rest
  case drainEndNotice => cases run; unfold drainEnd; rw [h.mode]; exact h.rest
  case powerOn => cases run; exact fun _ => ⟨rfl, rfl, rfl, rfl⟩
  case pinReset => cases run; exact loadingAtRest_pinReset s
  case loadingEnd => cases run; exact loadingAtRest_loaded (endLoading_loaded _ _ _)
  all_goals exact (exec_only wf run).loadingAtRest rfl h.rest

/-- In LOADING no command offers a record: records are discarded, and events find nothing (R9, R129, R146). -/
theorem exec_loading {c : Instr} {s t : State} (h : Loading s) (wf : c.wf = true) (run : exec c s = .next t) :
    loadingAtRest t := by
  have framed : loadingAtRest (startMark s) := by
    rw [startMark_loading h.mode]; exact (endFraming_only s).loadingAtRest rfl h.rest
  cases isTraffic : traffic s c with
  | some x => rw [exec_traffic isTraffic, takeTraffic_loading h.mode] at run; cases run; exact framed
  | none =>
    cases isRequest : header c with
    | some r => rw [exec_request isRequest, takeRequest_loading h.mode] at run; cases run; exact framed
    | none => exact event_loading isRequest isTraffic h wf run

theorem exec_loadingAtRest {c : Instr} {s t : State} (rest : loadingAtRest s) (tracked : trackingKept s)
    (wf : c.wf = true) (run : exec c s = .next t) : loadingAtRest t := by
  by_cases mode : s.agent.mode = .loading
  · exact exec_loading (.of_kept mode rest tracked) wf run
  · exact exec_loaded mode wf run

/-- Settles O10: the two invariants of the link by what survives every operation on it, the third by the mode in which
the command comes. -/
theorem stepKeepsTheRouteLink : Obligations.StepKeepsTheRouteLink := by
  intro s t run
  refine ⟨?_, fun rest waits => ?_, fun rest tracked wf => ?_⟩
  · exact linkStable_outputKept.stable.step linkStable_outputKept.resetStable run
      fun o p _ _ => endLoading_outputKept o p
  · refine linkStable_linkAtRest.stable.step linkStable_linkAtRest.resetStable run (fun o p u taken => ?_) rest
    refine endLoading_linkAtRest o p fun loading => ?_
    rw [taken.link.resolve_left (Part.unnamed rfl)]
    exact waits (taken.mode.resolve_left (Part.unnamed rfl) ▸ loading)
  · unfold step at run; split at run
    · cases run; exact rest
    · next c more front =>
      exact exec_loadingAtRest (s := s.setPending more) rest tracked (wf c (by rw [front]; rfl)) run

end Sys2Proof.Machine
end

section
/-! Raising and offering (R133, R175, R177), and the beginning of sending (R134). -/
namespace Sys2Proof.Machine
open Sys2Proof.Safety

/-! ### A flag raised (R175, R177) -/

theorem raise_set (c : Ctx) {f : Flag} {s : State} (already : flagSet s f = true) : raise c f s = s :=
  if_pos already

theorem raise_unmasked (c : Ctx) {f : Flag} {s : State} (clear : flagSet s f = false) (mask : maskSet s f = false) :
    raise c f s = setFlag f s := by
  unfold raise; dsimp only
  rw [if_neg (Bool.eq_false_iff.mp clear)]
  exact if_neg (Bool.eq_false_iff.mp mask)

theorem raise_masked (c : Ctx) {f : Flag} {s : State} (clear : flagSet s f = false) (mask : maskSet s f = true) :
    raise c f s = offer (.alert f c.here) (setFlag f s) := by
  unfold raise; dsimp only
  rw [if_neg (Bool.eq_false_iff.mp clear)]
  exact if_pos mask

/-! ### A record offered (R133) -/

theorem roomForOffered_iff (s : State) : roomForOffered s = true ↔
    s.link.queue.length < Config.outputQueueMax ∧ nonRouteCount s.link.queue < Config.nonRouteMax := by
  simp [roomForOffered]

theorem offer_room {r : OutRecord} {s : State} (room : roomForOffered s = true) : offer r s = place r s := if_pos room

theorem offer_full {r : OutRecord} {s : State} (full : ¬ roomForOffered s = true) : offer r s = setFlag .outDropped s :=
  if_neg full

theorem place_held {r : OutRecord} {s : State} (held : s.pins.ready = false ∨ s.link.sending.isSome = true) :
    place r s = enqueue r s := tryBegin_held (s := enqueue r s) (held.imp_right .inl)

/-- Settles O57: the two tests of a raised flag, and the two limits of an offered record. -/
theorem raisingAndOffering : Obligations.RaisingAndOffering := by
  refine ⟨fun c f s => ⟨raise_set c, raise_unmasked c, raise_masked c⟩, flagSet_setFlag, fun r s =>
    ⟨fun length few => ⟨fun held => ?_, fun ready empty => offer_link_begins r empty ready⟩, fun full => offer_full ?_⟩⟩
  · rw [offer_room ((roomForOffered_iff s).mpr ⟨length, few⟩), place_held held]; rfl
  · rw [roomForOffered_iff, not_and_or, not_lt, not_lt]; exact full

/-! ### Sending begins (R134) -/

/-- The sheets once a record has begun sending: the entry of a ROUTE record is SENT, its stale expiry cancelled. -/
theorem begins_routeSent {r : OutRecord} {s u : State} (sheets : u.tracker = s.tracker)
    (watches : u.watches = s.watches) : begins r s (routeSent r u) := by
  refine ⟨?_, fun other => ?_⟩
  · rintro tag gate grade leading rfl
    refine ⟨?_, unwatched_disarm _ _⟩
    show (modifyEntry tag _ u).tracker.sheets = _
    unfold modifyEntry
    rw [State.setTracker_tracker, sheets]
  · cases r with
    | route tag gate grade leading => exact absurd rfl (other tag gate grade leading)
    | _ => exact ⟨sheets, watches⟩

/-- With READY high and the link idle the head begins sending. -/
theorem tryBegin_head {s : State} {r : OutRecord} {rest : List OutRecord} (link : s.link = ⟨r :: rest, none⟩)
    (ready : s.pins.ready = true) : tryBegin s = routeSent r (s.setLink ⟨rest, some r⟩) := by
  unfold tryBegin; rw [link, ready]

theorem routeSent_link (r : OutRecord) (s : State) : (routeSent r s).link = s.link :=
  (routeSent_only r s).link.resolve_left (Part.unnamed rfl)

theorem routeSent_pins (r : OutRecord) (s : State) : (routeSent r s).pins = s.pins :=
  (routeSent_only r s).pins.resolve_left (Part.unnamed rfl)

/-- What the beginning of sending does, from a state with the sheets and positions of `s`. -/
theorem tryBegin_begins {s u : State} {r : OutRecord} {rest : List OutRecord} (link : u.link = ⟨r :: rest, none⟩)
    (ready : u.pins.ready = true) (sheets : u.tracker = s.tracker) (watches : u.watches = s.watches) :
    (tryBegin u).link = ⟨rest, some r⟩ ∧ (tryBegin u).pins = u.pins ∧ begins r s (tryBegin u) := by
  rw [tryBegin_head link ready, routeSent_link, routeSent_pins]
  exact ⟨rfl, rfl, begins_routeSent sheets watches⟩

/-- The link once its record has completed, with READY at a level (R134). -/
def sendingEnded (ready : Bool) (s : State) : State := setReady ready (s.setLink { s.link with sending := none })

theorem completeSending_some {s : State} {r : OutRecord} (sending : s.link.sending = some r) (ready : Bool) :
    completeSending ready s = tryBegin (sendingEnded ready s) := by unfold completeSending; rw [sending]; rfl

theorem completeSending_none {s : State} (idle : s.link.sending = none) (ready : Bool) :
    completeSending ready s = s := by
  unfold completeSending; rw [idle]

/-- Settles O39: each cause of a beginning comes to `tryBegin`, which takes the head or changes nothing. -/
theorem sendingTakesTheHead : Obligations.SendingTakesTheHead := by
  refine ⟨fun s r rest link => ⟨?_, fun ready => ?_⟩, fun s held => ?_, fun s held => ?_, fun s r sending => ⟨?_, ?_⟩,
    fun s ready idle => congrArg Host.Outcome.next (completeSending_none idle ready)⟩
  · exact ⟨_, rfl, tryBegin_begins (u := setReady true s) link rfl rfl rfl⟩
  · exact ⟨_, rfl, tryBegin_begins link ready rfl rfl⟩
  · exact congrArg Host.Outcome.next (tryBegin_held (s := setReady true s) (.inr held))
  · exact congrArg Host.Outcome.next (tryBegin_held held)
  · have low : tryBegin (sendingEnded false s) = sendingEnded false s := tryBegin_held (.inl rfl)
    refine ⟨_, congrArg Host.Outcome.next ((completeSending_some sending false).trans low), rfl, rfl, rfl⟩
  · refine ⟨_, congrArg Host.Outcome.next (completeSending_some sending true), ?_⟩
    have ended : (sendingEnded true s).link = ⟨s.link.queue, none⟩ := rfl
    cases queue : s.link.queue with
    | nil =>
      rw [queue] at ended
      rw [tryBegin_held (.inr (.inr (congrArg Link.queue ended)))]
      exact ⟨ended, fun _ => ⟨rfl, rfl⟩, fun _ _ same => absurd same.symm (List.cons_ne_nil _ _)⟩
    | cons next rest =>
      rw [queue] at ended
      obtain ⟨link, -, began⟩ := tryBegin_begins (s := s) ended rfl rfl rfl
      refine ⟨link, fun none_ => absurd none_ (List.cons_ne_nil _ _), fun _ _ same => ?_⟩
      obtain ⟨rfl, rfl⟩ := List.cons.inj same
      exact began

end Sys2Proof.Machine
end

section
/-! The stale expiry, the divert windows and the Blind Span interval (R135, R137 to R140), and the line test on the
outputs they share (R138, R148, R171). -/
namespace Sys2Proof.Machine
open Sys2Proof.Safety

/-! ### The stale expiry (R135) -/

/-- With the link at rest a raised flag adds its own ALERT record to the Output Queue at most (R177). -/
theorem raise_queue (c : Ctx) (f : Flag) {s : State} (rest : linkAtRest s) :
    ∃ alerts, (raise c f s).link.queue = s.link.queue ++ alerts ∧ ∀ r ∈ alerts, r = .alert f c.here := by
  have none_ : ∃ alerts, s.link.queue = s.link.queue ++ alerts ∧ ∀ r ∈ alerts, r = .alert f c.here :=
    ⟨[], (List.append_nil _).symm, fun _ m => by cases m⟩
  cases clear : flagSet s f with
  | true => rw [raise_set c clear]; exact none_
  | false =>
    cases mask : maskSet s f with
    | false => rw [raise_unmasked c clear mask]; exact none_
    | true =>
      rw [raise_masked c clear mask]
      by_cases room : roomForOffered (setFlag f s) = true
      · rw [offer_room room]
        rcases place_link (.alert f c.here) (setFlag f s) with link | ⟨x, tail, ready, idle, queue, link⟩
        · exact ⟨[.alert f c.here], by rw [link]; rfl, fun r m => List.mem_singleton.mp m⟩
        · have waits : s.link.queue = [] := rest ready idle
          have queued : (setFlag f s).link.queue = s.link.queue := rfl
          rw [queued, waits] at queue
          obtain ⟨-, rfl⟩ := List.cons.inj queue
          exact ⟨[], by rw [link, waits]; rfl, fun _ m => by cases m⟩
      · rw [offer_full room]; exact none_

/-- The entry WITHDRAWN, its ROUTE record out of the Output Queue (R135). -/
def routeWithdrawn (tag : Tag) (s : State) : State :=
  modifyEntry tag (fun e => { e with route := .withdrawn }) (withdraw tag s)

theorem staleExpiry_placed {s : State} {tag : Tag} {e : Entry} (found : findEntry tag s = some e)
    (placed : e.route = .placed) (w : Watch) :
    staleExpiry tag w s = divertEntry (Ctx.at .scheduler w.pos) tag (routeWithdrawn tag s) := by
  unfold staleExpiry
  rw [withEntry_some found]
  exact if_pos placed

theorem routeWithdrawn_only (tag : Tag) (s : State) : Only [.link, .entries] s (routeWithdrawn tag s) :=
  .via (modifyEntry_only _ _ _ fun _ => ⟨rfl, rfl, rfl⟩) rfl (.via (withdraw_only ..) rfl (.refl ..))

theorem findEntry_routeWithdrawn {s : State} {tag : Tag} {e : Entry} (found : findEntry tag s = some e) :
    findEntry tag (routeWithdrawn tag s) = some { e with route := .withdrawn } :=
  findEntry_modifyEntry_self (fun _ => rfl)
    ((findEntry_only (withdraw_only tag s) (Part.unnamed rfl) tag).trans found)

theorem linkAtRest_routeWithdrawn (tag : Tag) {s : State} (rest : linkAtRest s) : linkAtRest (routeWithdrawn tag s) :=
  linkAtRest_sublist (s := s) rfl rfl List.filter_sublist rest

/-- One change of an entry after another. -/
theorem entryBecomes_trans {tag : Tag} {f g : Entry → Entry} {s t u : State} (keeps : ∀ e, (f e).tag = e.tag)
    (h : entryBecomes tag f s t) (k : entryBecomes tag g t u) : entryBecomes tag (fun e => g (f e)) s u := by
  unfold entryBecomes at h k ⊢
  rw [k, h, List.map_map]
  refine List.map_congr_left fun e _ => ?_
  by_cases own : e.tag = tag <;> simp [own, keeps]

/-- A divert leaves of the link what a raised DIVERTED leaves of it. -/
theorem divertEntry_link (c : Ctx) {tag : Tag} {s : State} {e : Entry} (found : findEntry tag s = some e)
    (rest : linkAtRest s) :
    (∃ alerts, (divertEntry c tag s).link.queue = s.link.queue ++ alerts ∧ ∀ r ∈ alerts, r = .alert .diverted c.here) ∧
      ∀ r : OutRecord, r.isRoute = true → (divertEntry c tag s).link.sending = some r → s.link.sending = some r := by
  have armed := windowArmed_only c tag e s
  have restArmed := linkAtRest_only armed (Part.unnamed rfl) (Part.unnamed rfl) rest
  rw [divertEntry_eq c found, ← armed.link.resolve_left (Part.unnamed rfl)]
  exact ⟨raise_queue c .diverted restArmed, (raise_offers c .diverted _).sending restArmed⟩

/-- Settles O37: the route is withdrawn, then the entry diverted. -/
theorem staleExpiryWithdraws : Obligations.StaleExpiryWithdraws := by
  intro s w e rest due found placed
  have restW : linkAtRest (routeWithdrawn e.tag (dropWatch w s)) :=
    linkAtRest_routeWithdrawn e.tag (dropWatch_rest rest)
  have foundDropped := (findEntry_dropWatch w e.tag s).trans found
  have foundW := findEntry_routeWithdrawn foundDropped
  have run : takeNamed (.stale e.tag) (staleExpiry e.tag) s = _ :=
    (takeNamed_due due).trans (staleExpiry_placed foundDropped placed w)
  obtain ⟨sheets, raised, opening, closing⟩ := divertEntry_diverts (Ctx.at .scheduler w.pos) foundW restW
  obtain ⟨⟨alerts, queue, alert⟩, sending⟩ := divertEntry_link (Ctx.at .scheduler w.pos) foundW restW
  have withdrawn : entryBecomes e.tag (fun x => { x with route := .withdrawn }) s
    (routeWithdrawn e.tag (dropWatch w s)) := rfl
  have both := entryBecomes_trans (f := fun x => { x with route := .withdrawn }) (fun _ => rfl) withdrawn sheets
  refine ⟨_, congrArg Host.Outcome.next run, both, fun gate grade leading => ?_,
    ⟨alerts, queue, alert⟩, raised, opening, closing⟩
  refine Classical.or_iff_not_imp_left.mpr fun on => ?_
  rcases not_not.mp on with waiting | sent
  · rw [queue] at waiting
    rcases List.mem_append.mp waiting with kept | added
    · have other := (List.mem_filter.mp kept).2
      simp [OutRecord.isRouteOf] at other
    · cases alert _ added
  · exact sending _ rfl sent

/-! ### Windows, interval and DIVERT (R137 to R140) -/

theorem divertWanted_iff (s : State) : divertWanted s = true ↔
    (∃ e ∈ s.tracker.sheets, e.window = some .opened) ∨ s.interval.phase = .opened := by
  simp [divertWanted]

theorem divertAsserted_free {s : State} (free : s.agent.lineTest = none) : divertAsserted s = divertWanted s := by
  unfold divertAsserted; rw [free]

theorem nozzleLines_free {s : State} (free : s.agent.lineTest = none) : nozzleLines s = markerNozzles s := by
  unfold nozzleLines; rw [free]

theorem outputs_held {s : State} {l : LineTest} (held : s.agent.lineTest = some l) :
    divertAsserted s = l.divert ∧ nozzleLines s = l.nozzles := by
  unfold divertAsserted nozzleLines; rw [held]; exact ⟨rfl, rfl⟩

/-- Settles O38: what each edge does, and who drives the line. -/
theorem divertFollowsWindowsAndInterval : Obligations.DivertFollowsWindowsAndInterval := by
  refine ⟨fun s w tag due => ?_, fun s w tag due => ?_, fun s w due waiting => ?_, fun s w due => ?_, fun s free => ?_,
    fun s l => outputs_held⟩
  · exact ⟨_, congrArg Host.Outcome.next (takeNamed_due due), rfl⟩
  · exact ⟨_, congrArg Host.Outcome.next (takeNamed_due due), rfl⟩
  · have opens : intervalOpening w (dropWatch w s) = (dropWatch w s).setInterval { s.interval with phase := .opened } :=
      if_pos waiting
    exact ⟨_, congrArg Host.Outcome.next ((takeNamed_due due).trans opens), rfl, rfl⟩
  · exact ⟨_, congrArg Host.Outcome.next (takeNamed_due due), rfl, rfl⟩
  · rw [divertAsserted_free free, divertWanted_iff]

/-! ### The line test (R171) -/

/-- The line test set, and the levels sampled (R171, log 10). -/
def tested (test : Option LineTest) (levels : Pins) (s : State) : State :=
  sampleLevels levels (s.setAgent { s.agent with lineTest := test })

theorem tested_only (test : Option LineTest) (levels : Pins) (s : State) :
    Only [.lineTest, .pins, .entries, .watches, .link] s (tested test levels s) := by
  refine .via (sampleLevels_only ..) rfl ?_
  constructor <;> simp [holdingsOf]

theorem tested_lineTest (test : Option LineTest) (levels : Pins) (s : State) :
    (tested test levels s).agent.lineTest = test := (sampleLevels_only ..).lineTest.resolve_left (Part.unnamed rfl)

theorem tested_pins (test : Option LineTest) (levels : Pins) (s : State) : (tested test levels s).pins = levels :=
  (tryBegin_only _).pins.resolve_left (Part.unnamed rfl)

theorem testRequest_hold {s : State} (standby : s.agent.mode = .standby) (level : Byte) (nozzles : NozzleSet)
    (levels : Pins) : testRequest 1 level nozzles levels s =
      (tested (some ⟨level ≠ 0, nozzles⟩) levels s, some ⟨.done, levelValues levels⟩) := if_neg (by simp [standby])

theorem testRequest_release {s : State} (standby : s.agent.mode = .standby) (level : Byte) (nozzles : NozzleSet)
    (levels : Pins) : testRequest 2 level nozzles levels s =
      (tested none levels s, some ⟨.done, levelValues levels⟩) := if_neg (by simp [standby])

theorem answered_pins (h : ReqHeader) (a : Answer) (s u : State) : (answered h a s u).pins = u.pins :=
  (answered_only ..).pins.resolve_left (Part.unnamed rfl)

/-- Settles O56: the test is set or ended, and the lines follow the one that stands. -/
theorem lineTestDrivesTheOutputs : Obligations.LineTestDrivesTheOutputs := by
  rintro s h level nozzles levels values taken standby rfl
  have test : ∀ l a, (answered h a s (tested l levels s)).agent.lineTest = l := fun l a =>
    (answered_lineTest h a s _).trans (tested_lineTest l levels s)
  have pins : ∀ l a, (answered h a s (tested l levels s)).pins = levels := fun l a =>
    (answered_pins h a s _).trans (tested_pins l levels s)
  have mode : ∀ l a, (answered h a s (tested l levels s)).agent.mode = .standby := fun l a =>
    (answered_mode h a s _).trans (((tested_only l levels s).mode.resolve_left (Part.unnamed rfl)).trans standby)
  refine ⟨⟨_, tested (some ⟨level ≠ 0, nozzles⟩) levels s, ?_, rfl, tested_pins .., pins .., test .., ?_, ?_, mode ..,
      ?_⟩,
    ⟨_, tested none levels s, ?_, rfl, tested_pins .., pins .., test .., ?_, ?_, mode ..⟩⟩
  · exact congrArg Host.Outcome.next (takeRequest_answer taken (testRequest_hold standby level nozzles levels))
  · exact (outputs_held (test _ _)).1
  · exact (outputs_held (test _ _)).2
  · exact (answered_position ..).trans ((tested_only ..).position.resolve_left (Part.unnamed rfl))
  · exact congrArg Host.Outcome.next (takeRequest_answer taken (testRequest_release standby level nozzles levels))
  · exact divertAsserted_free (test _ _)
  · exact nozzleLines_free (test _ _)

end Sys2Proof.Machine
end

section
/-! The Marker Driver (R148 to R152): the four tests of a stamp start, and the dots and rows of the stamp in print. -/
namespace Sys2Proof.Machine
open Sys2Proof.Safety

/-! ### The nozzles (R148) -/

/-- Outside a line test a row in range whose dot is on drives the nozzles with its set. -/
theorem nozzleLines_row {s : State} {p : Stamp} (free : s.agent.lineTest = none) (printing : s.marker = some p)
    (on : p.dotOn = true) (row : Fin 4) (here : p.row = row.val) : nozzleLines s = p.rows.get row := by
  rw [nozzleLines_free free]
  unfold markerNozzles
  rw [printing]
  exact (if_pos on).trans (here ▸ elem_get p.rows row 0)

/-- Outside a line test no nozzle is asserted unless the dot of a stamp in print is on. -/
theorem nozzleLines_off {s : State} (free : s.agent.lineTest = none) (off : ∀ p, s.marker = some p → p.dotOn = false) :
    nozzleLines s = 0 := by
  rw [nozzleLines_free free]
  unfold markerNozzles
  split
  · next p printing => exact if_neg (by simp [off p printing])
  · rfl

/-! ### What a dot's beginning and its end leave (R150, R151) -/

/-- A stamp in print whose current dot begins at a position and ends a dot length after it (R150, R151). -/
def dotBegun (p : Stamp) (w : Watch) (s : State) : State :=
  arm (Ctx.at .marker w.pos) .dotEnd (w.pos + bu s.settings.dotLength) (s.setMarker (some p))

theorem dotBegun_watched (p : Stamp) (w : Watch) (s : State) :
    watched (dotBegun p w s) .dotEnd (w.pos + bu s.settings.dotLength) := watched_arm ..

theorem nozzleLines_dotBegun {s : State} {p : Stamp} (free : s.agent.lineTest = none) (on : p.dotOn = true)
    (row : Fin 4) (here : p.row = row.val) (w : Watch) : nozzleLines (dotBegun p w s) = p.rows.get row :=
  nozzleLines_row (s := dotBegun p w s) free rfl on row here

/-- The dot of a row before the last is over, and the next row is awaited (R151). -/
def rowAwaited (p : Stamp) (w : Watch) (s : State) : State :=
  arm (Ctx.at .marker w.pos) .row (rowPositionOf s.settings p (p.row + 1)) (s.setMarker (some { p with dotOn := false }))

theorem rowAwaited_watched (p : Stamp) (w : Watch) (s : State) :
    watched (rowAwaited p w s) .row (rowPositionOf s.settings p (p.row + 1)) := watched_arm ..

theorem nozzleLines_rowAwaited {s : State} (free : s.agent.lineTest = none) (p : Stamp) (w : Watch) :
    nozzleLines (rowAwaited p w s) = 0 :=
  nozzleLines_off (s := rowAwaited p w s) free fun _ printing => Option.some.inj printing ▸ rfl

theorem nozzleLines_noStamp {s : State} (free : s.agent.lineTest = none) : nozzleLines (s.setMarker none) = 0 :=
  nozzleLines_off (s := s.setMarker none) free fun _ printing => nomatch printing

/-! ### The four tests of a stamp start (R150) -/

/-- The overrun of a stamp start: the entry's mark is skipped and MARK_OVERRUN raised (R152). -/
def overrun (tag : Tag) (w : Watch) (s : State) : State :=
  raise (Ctx.at .marker w.pos) .markOverrun
    (modifyEntry tag (fun e => { e with flags := { e.flags with markSkipped := true } }) s)

section
variable {s : State} {tag : Tag} {e : Entry} (found : findEntry tag s = some e) (w : Watch)
include found

theorem stampStart_disabled (disabled : s.settings.markerEnable = false) :
    stampStart tag w s = modifyEntry tag (fun e => { e with flags := { e.flags with unmarked := true } }) s := by
  simp [stampStart, withEntry_some found, disabled]

variable {d : Decision} (decided : e.decision = some d) (enabled : s.settings.markerEnable = true)
include decided enabled

theorem stampStart_noPattern (none_ : d.pattern = none) : stampStart tag w s = s := by
  simp [stampStart, withEntry_some found, decided, enabled, none_]

theorem stampStart_busy (pattern : d.pattern.isSome = true) (busy : s.marker.isSome = true) :
    stampStart tag w s = overrun tag w s := by
  obtain ⟨rows, pattern⟩ := Option.isSome_iff_exists.mp pattern
  obtain ⟨p, busy⟩ := Option.isSome_iff_exists.mp busy
  simp [stampStart, withEntry_some found, decided, enabled, pattern, busy, overrun]

theorem stampStart_free {rows : Vector NozzleSet 4} (pattern : d.pattern = some rows) (idle : s.marker = none) :
    stampStart tag w s = dotBegun ⟨tag, rows, d.rowCount, w.pos, 0, true⟩ w s := by
  simp [stampStart, withEntry_some found, decided, enabled, pattern, idle, dotBegun]
end

/-- With the link at rest an overrun marks its entry, raises its flag and leaves the stamp in print (R152). -/
theorem overrun_marks (tag : Tag) (w : Watch) {s : State} (rest : linkAtRest s) :
    entryBecomes tag (fun x => { x with flags := { x.flags with markSkipped := true } }) s (overrun tag w s) ∧
      (overrun tag w s).marker = s.marker ∧ raises [.markOverrun] s (overrun tag w s) := by
  let skipped := modifyEntry tag (fun e => { e with flags := { e.flags with markSkipped := true } }) s
  have raised : Only [.link, .flags] skipped (overrun tag w s) := raise_rest (s := skipped) rest
  exact ⟨raised.entries.resolve_left (Part.unnamed rfl), raised.marker.resolve_left (Part.unnamed rfl),
    raises_raise _ .markOverrun skipped⟩

/-! ### Dots and rows (R151) -/

section
variable {s : State} {p : Stamp} (printing : s.marker = some p) (w : Watch)
include printing

theorem dotEnd_last (last : p.rowCount ≤ p.row + 1) : dotEnd w s = s.setMarker none := by
  unfold dotEnd
  rw [printing]
  exact if_pos last

theorem dotEnd_more (more : p.row + 1 < p.rowCount) : dotEnd w s = rowAwaited p w s := by
  unfold dotEnd
  rw [printing]
  exact if_neg (Nat.not_le.mpr more)

theorem nextRow_printing : nextRow w s = dotBegun { p with row := p.row + 1, dotOn := true } w s := by
  unfold nextRow
  rw [printing]
  rfl
end

/-! ### The stamp start, the dot end and the row as commands -/

/-- Settles O40: each test of the start in turn, then the end of a dot before the last row and at it, and a row. -/
theorem stampsArePrintedRowByRow : Obligations.StampsArePrintedRowByRow := by
  refine ⟨fun s w e d rest due found decided => ?_, fun s w p printing free => ⟨fun due => ?_, fun due => ?_⟩⟩
  · have foundU : findEntry e.tag (dropWatch w s) = some e := (findEntry_dropWatch w e.tag s).trans found
    refine ⟨_, congrArg Host.Outcome.next (takeNamed_due due), fun disabled => ?_, fun enabled none_ => ?_,
      fun enabled pattern busy => ?_, fun rows enabled pattern idle => ?_⟩
    · rw [stampStart_disabled foundU w disabled]
      exact ⟨rfl, rfl, rfl⟩
    · exact stampStart_noPattern foundU w decided enabled none_
    · rw [stampStart_busy foundU w decided enabled pattern busy]
      exact overrun_marks e.tag w (dropWatch_rest rest)
    · rw [stampStart_free foundU w decided enabled pattern idle]
      exact ⟨rfl, rfl, dotBegun_watched .., fun free => nozzleLines_dotBegun free rfl 0 rfl w⟩
  · have run : exec .dotEnd s = .next (dotEnd w (dropWatch w s)) := congrArg Host.Outcome.next (takeNamed_due due)
    rcases Nat.lt_or_ge (p.row + 1) p.rowCount with more | last
    · rw [run, dotEnd_more (s := dropWatch w s) printing w more]
      exact ⟨_, rfl, nozzleLines_rowAwaited free p w, rfl, fun _ => ⟨rfl, rowAwaited_watched ..⟩,
        fun last => absurd more (Nat.not_lt.mpr last)⟩
    · rw [run, dotEnd_last (s := dropWatch w s) printing w last]
      exact ⟨_, rfl, nozzleLines_noStamp free, rfl, fun more => absurd more (Nat.not_lt.mpr last), fun _ => rfl⟩
  · have run : exec .rowPosition s = .next (dotBegun { p with row := p.row + 1, dotOn := true } w (dropWatch w s)) :=
      congrArg Host.Outcome.next ((takeNamed_due due).trans (nextRow_printing (s := dropWatch w s) printing w))
    exact ⟨_, run, rfl, dotBegun_watched .., rfl,
      fun inside => nozzleLines_dotBegun free rfl ⟨p.row + 1, inside⟩ rfl w⟩

end Sys2Proof.Machine
end

section
/-! Requests that only answer (R159, R161, R165, R166, R171): a Read judged in the order of R161, an Ident, and the
requests refused by their kind, target, action or mode. -/
namespace Sys2Proof.Machine
open Sys2Proof.Safety

/-! ### The judgement of a Read (R160, R161) -/

theorem selectedBank_none {selector : Byte} (above : 1 < selector.toNat) (s : State) :
    selectedBank s selector = none := by
  unfold selectedBank
  split
  · next active => omega
  · next staging => omega
  · rfl

theorem selectedBank_some {selector : Byte} (named : selector.toNat ≤ 1) (s : State) :
    ∃ b, selectedBank s selector = some b := by
  have code : selector.toNat = 0 ∨ selector.toNat = 1 := by omega
  unfold selectedBank
  rcases code with active | staging
  · rw [active]; exact ⟨_, rfl⟩
  · rw [staging]; exact ⟨_, rfl⟩

theorem boundsOk_zero (s : State) (o : Object) (index : Nat) : boundsOk s o index 0 = false := rfl

/-- One element within an object is within the bounds when its values fit a REPLY (R160). -/
theorem boundsOk_one {s : State} {o : Object} {index : Nat} (fits : o.size index ≤ Config.valuesMax) :
    boundsOk s o index 1 = decide (index < o.elements s) := by
  have values : valuesOf o.size 1 index = o.size index := rfl
  unfold boundsOk
  rw [values, decide_eq_true fits, Bool.and_true]
  exact Bool.true_and _

theorem readValues_one (s : State) (b : Bank) (o : Object) (index : Nat) :
    readValues s b o index 1 = o.read s b index := by
  simp [readValues]

theorem answerRead_unknown {object : Byte} (unknown : objectOf object = none) (selector : Byte) (index : Word)
    (count : Byte) (s : State) : answerRead object selector index count s = .refuse .badObject := by
  unfold answerRead; rw [unknown]

section
variable {object : Byte} {o : TableObject} (table : objectOf object = some (.table o)) {selector : Byte}
  (index : Word) (count : Byte) {s : State}
include table

theorem answerRead_badSelector (above : 1 < selector.toNat) :
    answerRead object selector index count s = .at .badValue 0 := by
  unfold answerRead; rw [table]; dsimp only; rw [selectedBank_none above]

theorem answerRead_protected (named : selector.toNat ≤ 1) (protect : s.agent.protect = true) :
    answerRead object selector index count s = .refuse .readProtected := by
  obtain ⟨b, bank⟩ := selectedBank_some named s
  unfold answerRead; rw [table]; dsimp only; rw [bank]
  exact if_pos protect

theorem answerRead_tableOutside (named : selector.toNat ≤ 1) (free : s.agent.protect = false)
    (outside : boundsOk s (.table o) index.toNat count.toNat = false) :
    answerRead object selector index count s = .refuse .badIndex := by
  obtain ⟨b, bank⟩ := selectedBank_some named s
  unfold answerRead; rw [table]; dsimp only; rw [bank]
  exact (if_neg (by simp [free])).trans (if_neg (by simp [outside]))

end

/-- An object that lies in no bank is read whatever the selector: it is judged by its bounds alone (R161). -/
theorem answerRead_unbanked {object : Byte} {o : Object} (known : objectOf object = some o)
    (unbanked : ∀ t, o ≠ .table t) (selector : Byte) (index : Word) (count : Byte) (s : State) :
    answerRead object selector index count s =
      if boundsOk s o index.toNat count.toNat then
        ⟨.done, readValues s (s.tables.bank s.tables.active) o index.toNat count.toNat⟩
      else .refuse .badIndex := by
  unfold answerRead; rw [known]
  cases o
  case table t => exact absurd rfl (unbanked t)
  all_goals rfl

section
variable {object : Byte} {o : Object} (known : objectOf object = some o) (unbanked : ∀ t, o ≠ .table t)
  {index : Word} (fits : o.size index.toNat ≤ Config.valuesMax) (selector : Byte) {s : State}
include known unbanked fits

/-- One element of an object that lies in no bank is answered with the values that stand. -/
theorem answerRead_one (inside : index.toNat < o.elements s) : answerRead object selector index 1 s =
    ⟨.done, o.read s (s.tables.bank s.tables.active) index.toNat⟩ := by
  have bounds : boundsOk s o index.toNat (1 : Byte).toNat = true :=
    (boundsOk_one fits).trans (decide_eq_true inside)
  rw [answerRead_unbanked known unbanked, if_pos bounds]
  exact congrArg (Answer.mk .done) (readValues_one ..)

theorem answerRead_oneOutside (outside : o.elements s ≤ index.toNat) :
    answerRead object selector index 1 s = .refuse .badIndex := by
  have bounds : boundsOk s o index.toNat (1 : Byte).toNat = false :=
    (boundsOk_one fits).trans (decide_eq_false (Nat.not_lt.mpr outside))
  rw [answerRead_unbanked known unbanked]
  exact if_neg (Bool.eq_false_iff.mp bounds)

end

/-- With at most 24 entries tracked there is no Sheets element after the last entry (R160). -/
theorem answerRead_pastLastSheet {s : State} (kept : s.tracker.sheets.length ≤ Config.sheetQueueMax) (selector : Byte) :
    answerRead 0x27 selector (BitVec.ofNat 16 s.tracker.sheets.length) 1 s = .refuse .badIndex := by
  have index : (BitVec.ofNat 16 s.tracker.sheets.length).toNat = s.tracker.sheets.length := by
    have most : Config.sheetQueueMax = 24 := rfl
    rw [BitVec.toNat_ofNat]; exact Nat.mod_eq_of_lt (by omega)
  exact answerRead_oneOutside (o := .status .sheets) rfl nofun (by decide : 18 ≤ 24) selector index.ge

/-! ### Taken requests -/

theorem copyProgress_still {s : State} (still : s.tables.copyInFlight = false) : copyProgress s = s :=
  if_neg (by simp [still])

/-- A taken Read is judged and answered on the state as far as a Copy in flight has come (R122, R161, log 8). -/
theorem exec_read {h : ReqHeader} {s : State} (t : takes h s) (object selector : Byte) (index : Word) (count : Byte) :
    exec (.read h object selector index count) s =
      .next (answered h (answerRead object selector index count (copyProgress s)) s (copyProgress s)) :=
  congrArg Host.Outcome.next (takeRequest_answer t rfl)

theorem testRequest_refused {s : State} (mode : s.agent.mode ≠ .standby) (action level : Byte) (nozzles : NozzleSet)
    (levels : Pins) : testRequest action level nozzles levels s = (s, some (.refuse .refusedMode)) := if_pos mode

/-- A Test whose action is neither HOLD nor RELEASE: the mode is judged first, then the action (R171). -/
theorem testRequest_badAction {action : Byte} (bad : action.toNat = 0 ∨ 2 < action.toNat) (level : Byte)
    (nozzles : NozzleSet) (levels : Pins) (s : State) : testRequest action level nozzles levels s =
      (s, some (if s.agent.mode = .standby then .at .badValue 0 else .refuse .refusedMode)) := by
  by_cases mode : s.agent.mode = .standby
  · unfold testRequest
    rw [if_neg (not_not.mpr mode), if_pos mode]
    split
    · next hold => omega
    · next release => omega
    · rfl
  · rw [testRequest_refused mode, if_neg mode]

/-- Settles O50: each request by the one rule that answers it, and a Read by its judgement in the order of R161. -/
theorem requestsThatOnlyAnswer : Obligations.RequestsThatOnlyAnswer := by
  refine ⟨fun s h t => ⟨fun object selector index count still => ?_,
      fun object selector index count _ => exec_read t .., ?_, fun kind fields wf => ?_, fun target wf => ?_,
      fun action level nozzles wf => ?_,
      fun level nozzles levels mode => ⟨?_, ?_⟩⟩,
    fun s object selector index count => ⟨fun unknown => answerRead_unknown unknown .., fun o table => ⟨?_, ?_, ?_⟩,
      ?_, ?_, ?_, ?_, fun kept => answerRead_pastLastSheet kept selector⟩⟩
  · rw [exec_read t, copyProgress_still still]
  · exact congrArg Host.Outcome.next (takeRequest_answer t rfl)
  · have misfit : parseRequest kind fields = none := by simpa using (Bool.and_eq_true_iff.mp wf).2
    refine congrArg Host.Outcome.next (takeRequest_answer t ?_)
    rw [misfit]; rfl
  · have bad : target.toNat = 0 ∨ 3 < target.toNat := by simpa [Instr.wf] using wf
    exact congrArg Host.Outcome.next (takeRequest_answer t (modeRequest_bad target s bad))
  · have bad : action.toNat = 0 ∨ 2 < action.toNat := by simpa [Instr.wf] using wf
    exact congrArg Host.Outcome.next (takeRequest_answer t (testRequest_badAction bad level nozzles s.pins s))
  · exact congrArg Host.Outcome.next (takeRequest_answer t (testRequest_refused mode 1 level nozzles levels))
  · exact congrArg Host.Outcome.next (takeRequest_answer t (testRequest_refused mode 2 level nozzles levels))
  · exact answerRead_badSelector table index count
  · exact answerRead_protected table index count
  · rintro named free rfl
    exact answerRead_tableOutside table index 0 named free (boundsOk_zero ..)
  · exact answerRead_one (o := .status .belt) rfl nofun (by decide) selector Nat.zero_lt_one
  · exact answerRead_one (o := .status .flags) rfl nofun (by decide) selector Nat.zero_lt_one
  · exact answerRead_one (o := .status .rejectedCount) rfl nofun (by decide) selector Nat.zero_lt_one
  · exact answerRead_one (o := .standby .scanLag) rfl nofun (by decide) selector Nat.zero_lt_one

end Sys2Proof.Machine
end

section
/-! The Alert Mask and the ALERT line (R176, R179): what the store of one mask bit leaves of every other, and when some
flag that is set has its mask bit set. -/
namespace Sys2Proof.Machine
open Sys2Proof.Safety

/-! ### The flag of a bit (Table 11-2) -/

/-- The flags in the order of their codes. -/
def flagsByCode : List Flag :=
  [.scanFault, .frameGap, .scanSilent, .orphan, .spanConflict, .overlength, .blind, .beltReversed,
   .late, .diverted, .markOverrun, .outDropped, .commitDone, .bankReleased, .drained, .optionFault]

theorem flagsByCode_codes : flagsByCode.map Flag.code = List.range 16 := rfl

/-- Every bit of a flag word is some flag's. -/
theorem exists_flag_of_code {n : Nat} (less : n < 16) : ∃ f : Flag, f.code = n := by
  have listed : n ∈ flagsByCode.map Flag.code := by
    rw [flagsByCode_codes]; exact List.mem_range.mpr less
  obtain ⟨f, -, code⟩ := List.mem_map.mp listed
  exact ⟨f, code⟩

/-- A flag's code, as the index of a Write, names the flag's own element. -/
theorem flag_index (f : Flag) : (BitVec.ofNat 16 f.code).toNat = f.code := by
  have less := flag_lt f
  rw [BitVec.toNat_ofNat]; exact Nat.mod_eq_of_lt (by omega)

/-! ### One mask bit stored (R179) -/

/-- The settings with one bit of the Alert Mask stored. -/
def withMaskBit (n : Nat) (on : Bool) (st : Settings) : Settings :=
  { st with alertMask := if on then st.alertMask ||| flagBit n else st.alertMask &&& ~~~(flagBit n) }

theorem store_alertMask (v : Word) (n : Nat) (st : Settings) :
    SettingL.alertMask.store n v st = (onOff 0 v).map fun on => withMaskBit n on st := rfl

theorem withMaskBit_get (n : Nat) (on : Bool) (st : Settings) {m : Nat} (less : m < 16) :
    (withMaskBit n on st).alertMask.getLsbD m = if m = n then on else st.alertMask.getLsbD m := by
  unfold withMaskBit
  cases on with
  | false =>
    rw [if_neg Bool.false_ne_true, BitVec.getLsbD_and, BitVec.getLsbD_not, flagBit_get less]
    by_cases same : m = n <;> simp [same, less]
  | true =>
    rw [if_pos rfl, BitVec.getLsbD_or, flagBit_get less]
    by_cases same : m = n <;> simp [same]

theorem maskSet_withMaskBit (f g : Flag) (on : Bool) (s : State) :
    maskSet (s.setSettings (withMaskBit f.code on s.settings)) g = if g = f then on else maskSet s g := by
  refine (withMaskBit_get f.code on s.settings (flag_lt g)).trans ?_
  simp only [flag_ext, maskSet]

theorem maskSet_answered (h : ReqHeader) (a : Answer) (s u : State) (f : Flag) :
    maskSet (answered h a s u) f = maskSet u f := by
  unfold maskSet; rw [answered_settings]

/-- A taken Write of one Alert Mask element is the store of that flag's bit, in whatever mode. -/
theorem exec_writeAlertMask {h : ReqHeader} {s : State} (t : takes h s) (f : Flag) {v : Word} {u : State} {a : Answer}
    (k : writeLive .alertMask f.code 1 [v] s = (u, some a)) :
    exec (.writeAlertMask h (BitVec.ofNat 16 f.code) [v]) s = .next (answered h a s u) := by
  refine congrArg Host.Outcome.next (takeRequest_answer t ?_)
  rw [writeRequest_one_live (o := .alertMask) rfl (by rw [flag_index]; exact flag_lt f), flag_index]
  exact k

/-! ### The ALERT line (R176) -/

theorem alertAsserted_iff (s : State) :
    alertAsserted s = true ↔ ∃ f : Flag, flagSet s f = true ∧ maskSet s f = true := by
  have bits (n : Nat) : (s.attention.flags &&& s.settings.alertMask).getLsbD n = true ↔
      s.attention.flags.getLsbD n = true ∧ s.settings.alertMask.getLsbD n = true := by
    rw [BitVec.getLsbD_and, Bool.and_eq_true]
  unfold alertAsserted
  rw [decide_eq_true_iff]
  constructor
  · intro nonzero
    obtain ⟨n, less, both⟩ : ∃ n, n < 16 ∧ (s.attention.flags &&& s.settings.alertMask).getLsbD n = true := by
      by_contra none_
      refine nonzero (BitVec.eq_of_getLsbD_eq fun n less => ?_)
      rw [Bool.eq_false_iff.mpr fun both => none_ ⟨n, less, both⟩]
      exact BitVec.getLsbD_zero.symm
    obtain ⟨f, rfl⟩ := exists_flag_of_code less
    exact ⟨f, (bits _).mp both⟩
  · rintro ⟨f, both⟩ zero
    have bit := (bits f.code).mpr both
    rw [zero] at bit
    exact absurd bit (by simp)

/-- Settles O52: the Write stores the one bit and its REPLY raises OUT_DROPPED at most; the ALERT line reads the flag
word against the mask bit by bit. -/
theorem alertMaskGovernsAlert : Obligations.AlertMaskGovernsAlert := by
  refine ⟨fun s h f v t => ⟨fun onOrOff => ?_, fun big => ?_⟩, alertAsserted_iff⟩
  · have stored := writeLive_stored (s := s) (i := f.code) (v := v) (by rw [store_alertMask, onOff_ok onOrOff]; rfl)
    refine ⟨_, exec_writeAlertMask t f stored, ?_, fun g other => ?_, fun g kept => flagSet_answered_other h .done s kept _⟩
    · rw [maskSet_answered, maskSet_withMaskBit, if_pos rfl]
    · rw [maskSet_answered, maskSet_withMaskBit, if_neg other]
  · exact exec_writeAlertMask t f (writeLive_bad (by rw [store_alertMask, onOff_bad big]; rfl))

end Sys2Proof.Machine
end

section
/-! The step function by the queue of commands (log 2): one equation for a command at the front, one for none waiting. -/
namespace Sys2Proof.Machine

@[simp] theorem State.setPending_setPending (old new : List Instr) (s : State) :
    (s.setPending old).setPending new = s.setPending new := rfl

theorem step_idle {s : State} (idle : s.pending = []) : step s = .next s := by
  unfold step; rw [idle]

theorem step_front {c : Instr} {rest : List Instr} {s : State} (front : s.pending = c :: rest) :
    step s = exec c (s.setPending rest) := by
  unfold step; rw [front]

/-- Settles O1: the queue written first is the one the step reads, and taking its front writes the rest over it. -/
theorem stepRunsTheFrontCommand : Obligations.StepRunsTheFrontCommand := by
  refine ⟨fun c rest s => ?_, fun _ idle => step_idle idle⟩
  have front : (s.setPending (c :: rest)).pending = c :: rest := State.setPending_pending ..
  rw [step_front front, State.setPending_setPending]

end Sys2Proof.Machine
end
